-- ==== Sys2Proof/Word.lean ====
section
/-! DEFINITION. The word types of the CORE (00_scope.md R9): all values are unsigned integers of a stated width. -/

namespace Sys2Proof

/-- A word, 64 bits (R9). -/
abbrev Word := BitVec 64

/-- A 4-bit index, control word or order entry (R30, R93). -/
abbrev Nibble := BitVec 4

/-- A 16-bit command word (R93). -/
abbrev CmdWord := BitVec 16

/-- `MASK64`, the word of all ones (R9). -/
def mask64 : Word := BitVec.allOnes 64

end Sys2Proof
end

