-- ==== Sys2Proof/Machine/Arith.lean ====
section
/-! DEFINITION. The arithmetic primitives of R10, total functions on words. -/

namespace Sys2Proof.Machine

/-- `shl(x, k) = (x * 2^k) mod 2^64`, logical shift left (R10). -/
def shl (x : Word) (k : Nat) : Word := x <<< k

/-- `shr(x, k) = floor(x / 2^k)`, logical shift right (R10). -/
def shr (x : Word) (k : Nat) : Word := x >>> k

/-- `add(x, y) = (x + y) mod 2^64` (R10). -/
def add (x y : Word) : Word := x + y

/-- `sub(x, y) = (x - y) mod 2^64` (R10). -/
def sub (x y : Word) : Word := x - y

/-- `mul(x, y) = (x * y) mod 2^64` (R10). -/
def mul (x y : Word) : Word := x * y

/-- `rotl(x, r)`, rotation to the left (R10). It is never applied with `r` of 64 or more (R156). -/
def rotl (x : Word) (r : Nat) : Word :=
  if r = 0 then x else shl x r ||| shr x (64 - r)

/-- `rotr(x, r)`, rotation to the right (R10). -/
def rotr (x : Word) (r : Nat) : Word :=
  if r = 0 then x else shr x r ||| shl x (64 - r)

end Sys2Proof.Machine
end

