-- ==== Sys2Proof/Config.lean ====
section
/-! DEFINITION. The implementation parameters of R7: `N`, `PATTERN_LSB` and `LAT(cmd)`. -/

namespace Sys2Proof

/-- `PATTERN_LSB`, the bit position of the pattern field inside the control word: 2 or 0 (R7, R172;
90_conflicts.md C1). -/
inductive PatternLsb where
  | two
  | zero
deriving DecidableEq, Repr

/-- The position as a number. -/
def PatternLsb.pos : PatternLsb → Nat
  | .two => 2
  | .zero => 0

/-- The parameters fixed when the block is built (R7). The number of slots is held as the number of its
last slot, so that every configuration has 1 ≤ N ≤ 16. -/
structure Config where
  lastSlot : Fin 16
  patternLsb : PatternLsb
deriving DecidableEq, Repr

/-- `N`, the one count shared by keys, catalog, order and orchestrator (R7, R8). -/
def Config.N (c : Config) : Nat := c.lastSlot.val + 1

/-- The reference values of R7: `N = 4`, `PATTERN_LSB = 2`. -/
def Config.reference : Config := { lastSlot := 3, patternLsb := .two }

/-- The part of a latency above the one cycle that R293 guarantees. It may differ between commands and
between two executions of one command, so it is open in both arguments: the command word and which
execution it is. UNSPECIFIED by the spec: a free value (log 6). -/
opaque Config.latencySlack : CmdWord → Nat → Nat

/-- `LAT(cmd)` in clock cycles, at least 1 and otherwise open (R7, R293). No rule depends on it. -/
def Config.latency (cmd : CmdWord) (occurrence : Nat) : Nat := 1 + Config.latencySlack cmd occurrence

end Sys2Proof
end

