-- ==== Sys2Proof/Syntax.lean ====
section
/-! DEFINITION. The command set DSS-CORE/1: one constructor of `Instr` per row of the opcode map (R97), and
the formats of R94. -/

namespace Sys2Proof

/-- A command after decoding (R97). `i` and `p` are the `IDX` field as a slot number or an order position,
`c` the `IDX` field as a control word, `j` the `SEL` bit, `d` the operand `WDATA` of a command marked D
(R94, R95). The operand types carry the bounds of the fields. -/
inductive Instr where
  | nop
  | rdst
  | clrerr
  | srst
  | rdslot (i : Nibble)
  | wrp (d : Word)
  | wrq (d : Word)
  | wrs (d : Word)
  | wrv (d : Word)
  | wrkey (i : Nibble) (d : Word)
  | wrord (p : Nibble) (d : Word)
  | wrsp (i : Nibble) (j : BitVec 1) (d : Word)
  | rdp
  | rdq
  | rds
  | rdv
  | rdkey (i : Nibble)
  | rdord (p : Nibble)
  | rdsp (i : Nibble) (j : BitVec 1)
  | kstep (i : Nibble)
  | keygen
  | tenc (i : Nibble)
  | tdec (i : Nibble)
  | selord (c : Nibble)
  | enc
  | dec
deriving DecidableEq, Repr

/-- The name of a command without its operands (R97). -/
inductive Mnemonic where
  | nop | rdst | clrerr | srst | rdslot
  | wrp | wrq | wrs | wrv | wrkey | wrord | wrsp
  | rdp | rdq | rds | rdv | rdkey | rdord | rdsp
  | kstep | keygen | tenc | tdec | selord | enc | dec
deriving DecidableEq, Repr

/-- The rows of R97, in the order of the table. -/
def Mnemonic.all : List Mnemonic :=
  [.nop, .rdst, .clrerr, .srst, .rdslot,
   .wrp, .wrq, .wrs, .wrv, .wrkey, .wrord, .wrsp,
   .rdp, .rdq, .rds, .rdv, .rdkey, .rdord, .rdsp,
   .kstep, .keygen, .tenc, .tdec, .selord, .enc, .dec]

/-- The three formats of R94. -/
inductive Format where
  | z
  | i
  | s
deriving DecidableEq, Repr

/-- The format column of R97. -/
def Mnemonic.format : Mnemonic → Format
  | .rdslot | .wrkey | .wrord | .rdkey | .rdord | .kstep | .tenc | .tdec | .selord => .i
  | .wrsp | .rdsp => .s
  | .nop | .rdst | .clrerr | .srst | .wrp | .wrq | .wrs | .wrv | .rdp | .rdq | .rds | .rdv
  | .keygen | .enc | .dec => .z

/-- The D column of R97: the command uses `WDATA`. -/
def Mnemonic.usesData : Mnemonic → Bool
  | .wrp | .wrq | .wrs | .wrv | .wrkey | .wrord | .wrsp => true
  | .nop | .rdst | .clrerr | .srst | .rdslot | .rdp | .rdq | .rds | .rdv | .rdkey | .rdord | .rdsp
  | .kstep | .keygen | .tenc | .tdec | .selord | .enc | .dec => false

/-- The row of a command. -/
def Instr.mnemonic : Instr → Mnemonic
  | .nop => .nop
  | .rdst => .rdst
  | .clrerr => .clrerr
  | .srst => .srst
  | .rdslot _ => .rdslot
  | .wrp _ => .wrp
  | .wrq _ => .wrq
  | .wrs _ => .wrs
  | .wrv _ => .wrv
  | .wrkey _ _ => .wrkey
  | .wrord _ _ => .wrord
  | .wrsp _ _ _ => .wrsp
  | .rdp => .rdp
  | .rdq => .rdq
  | .rds => .rds
  | .rdv => .rdv
  | .rdkey _ => .rdkey
  | .rdord _ => .rdord
  | .rdsp _ _ => .rdsp
  | .kstep _ => .kstep
  | .keygen => .keygen
  | .tenc _ => .tenc
  | .tdec _ => .tdec
  | .selord _ => .selord
  | .enc => .enc
  | .dec => .dec

/-- What the host puts on the command channel: `CMD` and `WDATA` (R93). -/
structure Command where
  cmd : CmdWord
  wdata : Word
deriving DecidableEq, Repr

end Sys2Proof
end

