-- ==== Sys2Proof/WellFormed.lean ====
section
/-! DEFINITION. Which source lines name a command (R110). A term of `Instr` needs no check of its own: its
operand types hold exactly the values its fields can hold. -/

namespace Sys2Proof

/-- One assembler line `MNEMONIC [idx [, sel]] [, data]` after its numbers are read (R110). -/
structure AsmLine where
  mnemonic : Mnemonic
  idx : Option Nat := none
  sel : Option Nat := none
  data : Option Nat := none
deriving DecidableEq, Repr

namespace AsmLine

/-- `idx` is given exactly for the formats that use it (R110). -/
def idxPresence (l : AsmLine) : Bool := l.idx.isSome == (l.mnemonic.format != .z)

/-- The assembler refuses an `idx` above 15. -/
def idxRange (l : AsmLine) : Bool := l.idx.all (· ≤ 15)

/-- `sel` is given exactly for format S. -/
def selPresence (l : AsmLine) : Bool := l.sel.isSome == (l.mnemonic.format == .s)

/-- The assembler refuses a `sel` above 1. -/
def selRange (l : AsmLine) : Bool := l.sel.all (· ≤ 1)

/-- `data` is given exactly for the commands marked D. -/
def dataPresence (l : AsmLine) : Bool := l.data.isSome == l.mnemonic.usesData

/-- The assembler refuses a `data` above 2^64 - 1. -/
def dataRange (l : AsmLine) : Bool := l.data.all (· < 2 ^ 64)

/-- The line assembles (R110). The assembler does not know `N`, so an `idx` at or above `N` is accepted. -/
def wellFormed (l : AsmLine) : Bool :=
  l.idxPresence && l.idxRange && l.selPresence && l.selRange && l.dataPresence && l.dataRange

end AsmLine

end Sys2Proof
end

