-- ==== Sys2Proof/Decode.lean ====
section
/-! DEFINITION. Decoding and encoding of command words (R93 to R100), and the assembler of R110, R111. -/

namespace Sys2Proof

/-- The OP column of R97. -/
def Mnemonic.opcode : Mnemonic → BitVec 8
  | .nop => 0x00
  | .rdst => 0x01
  | .clrerr => 0x02
  | .srst => 0x03
  | .rdslot => 0x04
  | .wrp => 0x10
  | .wrq => 0x11
  | .wrs => 0x12
  | .wrv => 0x13
  | .wrkey => 0x14
  | .wrord => 0x15
  | .wrsp => 0x16
  | .rdp => 0x18
  | .rdq => 0x19
  | .rds => 0x1A
  | .rdv => 0x1B
  | .rdkey => 0x1C
  | .rdord => 0x1D
  | .rdsp => 0x1E
  | .kstep => 0x20
  | .keygen => 0x21
  | .tenc => 0x30
  | .tdec => 0x31
  | .selord => 0x40
  | .enc => 0x50
  | .dec => 0x51

/-- The mask of a format: the bits of `CMD` that are fixed (R94). -/
def Format.mask : Format → CmdWord
  | .z => 0xFFFF
  | .i => 0xFF0F
  | .s => 0xFF0E

/-- `OP`, bits 15:8 of the command word (R93). -/
def CmdWord.op (w : CmdWord) : BitVec 8 := w.extractLsb' 8 8

/-- `IDX`, bits 7:4 (R93, R95). -/
def CmdWord.idx (w : CmdWord) : Nibble := w.extractLsb' 4 4

/-- `SEL`, bit 0 (R93, R95). -/
def CmdWord.sel (w : CmdWord) : BitVec 1 := w.extractLsb' 0 1

/-- Why a command word is illegal. -/
inductive Illegal where
  /-- `OP` is reserved (R98). -/
  | reservedOpcode
  /-- A field the format does not use is not zero (R99). -/
  | reservedField
deriving DecidableEq, Repr

/-- The row with a given `OP`, if there is one (R96). -/
def Mnemonic.ofOpcode (op : BitVec 8) : Option Mnemonic :=
  Mnemonic.all.find? (fun m => m.opcode == op)

/-- The command of a row with given field values; fields the format does not use are dropped. -/
def Mnemonic.toInstr (m : Mnemonic) (i : Nibble) (j : BitVec 1) (d : Word) : Instr :=
  match m with
  | .nop => .nop
  | .rdst => .rdst
  | .clrerr => .clrerr
  | .srst => .srst
  | .rdslot => .rdslot i
  | .wrp => .wrp d
  | .wrq => .wrq d
  | .wrs => .wrs d
  | .wrv => .wrv d
  | .wrkey => .wrkey i d
  | .wrord => .wrord i d
  | .wrsp => .wrsp i j d
  | .rdp => .rdp
  | .rdq => .rdq
  | .rds => .rds
  | .rdv => .rdv
  | .rdkey => .rdkey i
  | .rdord => .rdord i
  | .rdsp => .rdsp i j
  | .kstep => .kstep i
  | .keygen => .keygen
  | .tenc => .tenc i
  | .tdec => .tdec i
  | .selord => .selord i
  | .enc => .enc
  | .dec => .dec

/-- Decoding (R96): total on every command word; it looks at no state, does not compare `IDX` with `N`, and
uses `WDATA` only as the operand of a command marked D (R100). -/
def decode (c : Command) : Except Illegal Instr :=
  match Mnemonic.ofOpcode (CmdWord.op c.cmd) with
  | none => .error .reservedOpcode
  | some m =>
    if c.cmd &&& m.format.mask = m.opcode.setWidth 16 <<< 8 then
      .ok (m.toInstr (CmdWord.idx c.cmd) (CmdWord.sel c.cmd) c.wdata)
    else .error .reservedField

/-- The `IDX` field of a command, zero where its format has none (R94). -/
def Instr.idxField : Instr → Nibble
  | .rdslot i | .wrkey i _ | .wrord i _ | .wrsp i _ _ | .rdkey i | .rdord i | .rdsp i _
  | .kstep i | .tenc i | .tdec i | .selord i => i
  | .nop | .rdst | .clrerr | .srst | .wrp _ | .wrq _ | .wrs _ | .wrv _
  | .rdp | .rdq | .rds | .rdv | .keygen | .enc | .dec => 0

/-- The `SEL` bit of a command, zero where its format has none (R94). -/
def Instr.selField : Instr → BitVec 1
  | .wrsp _ j _ | .rdsp _ j => j
  | .nop | .rdst | .clrerr | .srst | .rdslot _ | .wrp _ | .wrq _ | .wrs _ | .wrv _ | .wrkey _ _
  | .wrord _ _ | .rdp | .rdq | .rds | .rdv | .rdkey _ | .rdord _ | .kstep _ | .keygen | .tenc _
  | .tdec _ | .selord _ | .enc | .dec => 0

/-- The `WDATA` of a command, zero for a command not marked D (R110). -/
def Instr.dataField : Instr → Word
  | .wrp d | .wrq d | .wrs d | .wrv d | .wrkey _ d | .wrord _ d | .wrsp _ _ d => d
  | .nop | .rdst | .clrerr | .srst | .rdslot _ | .rdp | .rdq | .rds | .rdv | .rdkey _ | .rdord _
  | .rdsp _ _ | .kstep _ | .keygen | .tenc _ | .tdec _ | .selord _ | .enc | .dec => 0

/-- The command word `CMD` of a command: `OP` in bits 15:8, `IDX` in bits 7:4, three reserved zeros, `SEL` in
bit 0 (R93, R94). -/
def Instr.word (i : Instr) : CmdWord :=
  i.mnemonic.opcode.setWidth 16 <<< 8 ||| i.idxField.setWidth 16 <<< 4 ||| i.selField.setWidth 16

/-- The words of a command as the host issues it (R93, R110). -/
def encode (i : Instr) : Command := { cmd := i.word, wdata := i.dataField }

/-- The command an 80-bit number stands for: `CMD` in bits 15:0 and `WDATA` in bits 79:16
(DESIGN CHOICE, log 9: the spec gives the pair no common numbering). -/
def Command.ofNat (w : Nat) : Command :=
  { cmd := BitVec.ofNat 16 w, wdata := BitVec.ofNat 64 (w / 2 ^ 16) }

/-- The command the decoder reads from `nbits` bits `w`, the bits above them zero. -/
def decodeTableWord (nbits w : Nat) : Option Instr :=
  (decode (Command.ofNat (w % 2 ^ nbits))).toOption

/-- Assembling a line (R110): none for a line the assembler refuses. -/
def AsmLine.assemble (l : AsmLine) : Option Instr :=
  if l.wellFormed then
    some (l.mnemonic.toInstr (BitVec.ofNat 4 (l.idx.getD 0)) (BitVec.ofNat 1 (l.sel.getD 0))
      (BitVec.ofNat 64 (l.data.getD 0)))
  else none

/-- The pseudo-instructions of R111. -/
inductive Macro where
  | genkeys (p q s : Word)
  | ldorder (order : List Word)
  | encblk (c : Nibble) (b : Word)
  | decblk (f : Word)
  | rdkeys
  | rdorder
deriving DecidableEq, Repr

/-- The commands a macro stands for on a CORE with `n` slots (R111). -/
def Macro.expand (n : Nat) : Macro → List Instr
  | .genkeys p q s => [.wrp p, .wrq q, .wrs s, .keygen]
  | .ldorder order => ((List.range n).zip order).map (fun po => .wrord (BitVec.ofNat 4 po.1) po.2)
  | .encblk c b => [.wrv b, .selord c, .enc]
  | .decblk f => [.wrv f, .dec]
  | .rdkeys => (List.range n).map (fun i => .rdkey (BitVec.ofNat 4 i))
  | .rdorder => (List.range n).map (fun p => .rdord (BitVec.ofNat 4 p))

end Sys2Proof
end

