-- ==== Sys2Proof/Machine/State.lean ====
section
/-! DEFINITION. The state of the CORE (R30), the host's side of the command channel, and the reset state
(R44, R281). -/

namespace Sys2Proof.Machine

/-- A register together with its valid flag (R39): `some v` is flag 1 and value `v`; `none` is flag 0, and
then the register "holds no value" (log 1). -/
abbrev Flagged (α : Type) := Option α

/-- The response to one command (R101): `ERR` and `RDATA`. -/
structure Response where
  err : BitVec 4
  rdata : Word
deriving DecidableEq, Repr

/-- What the host does on the channel. -/
inductive Input where
  /-- The host presents a command and the CORE accepts it (R91). -/
  | command (c : Command)
  /-- The host asserts `rst` (R280), dropping the command in flight if there is one (R283). -/
  | rst (inFlight : Option Command)
deriving DecidableEq, Repr

/-- The architectural state (R30) with the three fields of the model: `cfg`, `input`, `rsp`. -/
structure State where
  /-- The parameters `N` and `PATTERN_LSB`, constant for the life of the block (R7, R43a; log 3). -/
  cfg : Config
  /-- `P` and `PV` (R31). -/
  p : Flagged Word
  /-- `Q` and `QV` (R31). -/
  q : Flagged Word
  /-- `S` and `SV`, the seed (R32). -/
  s : Flagged Word
  /-- `V` and `VV`, the working value (R33). -/
  v : Flagged Word
  /-- `KEY[0..N-1]` and `KEYV[0..N-1]` (R34). -/
  key : List (Flagged Word)
  /-- `ORD[0..N-1]` and `ORDV[0..N-1]` (R35). -/
  ord : List (Flagged Nibble)
  /-- The side parameters of each slot (R36): the sequence `SP[i][0], ..`; its length is `SPLEN[i]` (log 2). -/
  sp : List (List Word)
  /-- `CW`, the control word last given to `SELORD` (R38). -/
  cw : Nibble
  /-- `CWV`: `ORD` is the order of `CW` and was not edited since (R38). -/
  cwv : Bool
  /-- `ERR`, the sticky error code (R40). -/
  err : BitVec 4
  /-- `ECMD`, the command word of the command that set `ERR` (R40). -/
  ecmd : CmdWord
  /-- What the host has still to issue, in order (R92; log 4). -/
  input : List Input
  /-- The response produced by the last step, if it produced one (R101; log 5). -/
  rsp : Option Response
deriving DecidableEq, Repr

/-- The reasons for a step to stop with a fault. There are none: every error of the spec is reported in a
response and the CORE never halts (R262, R265). -/
inductive Fault where
deriving DecidableEq, Repr

/-- The reasons for a step to be refused. -/
inductive Refusal where
  /-- Raised by `exec` for an instruction the model gives no meaning; safe. No arm raises it. -/
  | notModelled (mnemonic : String)
deriving DecidableEq, Repr

/-- `N`, the number of slots of this CORE (R7). -/
def State.N (st : State) : Nat := st.cfg.N

/-- The reset state of a CORE with given parameters (R44, R281): every flag, every `SPLEN[i]`, `CW`, `CWV`,
`ERR` and `ECMD` are 0, and the data registers hold no value. Nothing is waiting on the channel. -/
def State.resetOf (cfg : Config) : State where
  cfg := cfg
  p := none
  q := none
  s := none
  v := none
  key := List.replicate cfg.N none
  ord := List.replicate cfg.N none
  sp := List.replicate cfg.N []
  cw := 0
  cwv := false
  err := 0
  ecmd := 0
  input := []
  rsp := none

/-- The machine right after reset, with the reference parameters of R7 (log 3). -/
def State.reset : State := State.resetOf Config.reference

end Sys2Proof.Machine
end

