-- ==== Sys2Proof/Machine/Ops.lean ====
section
/-! DEFINITION. The shared operations on the state: register files, the response, error entry and return
(R262, R264), the reset state. -/

namespace Sys2Proof.Machine

/-- What a meaning answers. -/
abbrev Result := Host.Outcome State Fault Refusal

/-! ## Errors -/

/-- The error causes (R251). -/
inductive ErrCode where
  | opcode
  | index
  | operand
  | uninit
  | order
  | spArity
  | spRange
deriving DecidableEq, Repr

/-- The codes of R251; 0 is success and 8..15 are never produced. -/
def ErrCode.code : ErrCode → BitVec 4
  | .opcode => 1
  | .index => 2
  | .operand => 3
  | .uninit => 4
  | .order => 5
  | .spArity => 6
  | .spRange => 7

/-- Error entry (R262): the first error since the record was cleared goes to `ERR` and `ECMD`, the response
carries the code and `RDATA = 0`, and nothing else changes. -/
def State.raise (st : State) (e : ErrCode) (cmd : CmdWord) : State :=
  { st with
    err := if st.err = 0 then e.code else st.err
    ecmd := if st.err = 0 then cmd else st.ecmd
    rsp := some { err := e.code, rdata := 0 } }

/-- Return from the error mechanism: the record is cleared (R264, R232). -/
def State.clearError (st : State) : State := { st with err := 0, ecmd := 0 }

/-- The response of a command that succeeded, with its data (R101). -/
def State.respond (st : State) (rdata : Word) : State :=
  { st with rsp := some { err := 0, rdata := rdata } }

/-- A command that raised an error: its own assignments are discarded (R262). -/
def fail (st : State) (e : ErrCode) (i : Instr) : Result := .next (st.raise e i.word)

/-- A command that succeeded and reads nothing out: `RDATA = 0` (R101). -/
def done (st : State) : Result := .next (st.respond 0)

/-- A read command that succeeded: `respond(v)` (R101). -/
def answer (st : State) (v : Word) : Result := .next (st.respond v)

/-! ## Register files -/

/-- An entry of a register file with its flag. A file has entries 0..N-1 and no others: an index outside the
file finds no value (log 8). -/
def readEntry {α : Type} (file : List (Flagged α)) (i : Nat) : Flagged α := file.getD i none

/-- All the values of entries in a list of flagged entries, when every flag is 1. -/
def allValues {α : Type} : List (Flagged α) → Option (List α)
  | [] => some []
  | none :: _ => none
  | some a :: rest => (allValues rest).map (a :: ·)

/-- The values of entries 0..n-1 of a file, when every one of their flags is 1. -/
def readFile {α : Type} (n : Nat) (file : List (Flagged α)) : Option (List α) :=
  allValues ((List.range n).map (readEntry file))

/-- `KEY[i]` with `KEYV[i]` (R34). -/
def State.keyAt (st : State) (i : Nat) : Flagged Word := readEntry st.key i

/-- `ORD[p]` with `ORDV[p]` (R35). -/
def State.ordAt (st : State) (p : Nat) : Flagged Nibble := readEntry st.ord p

/-- The side-parameter sequence of slot `i` (R36). -/
def State.spAt (st : State) (i : Nat) : List Word := st.sp.getD i []

/-- `KEY[i] <- k; KEYV[i] <- 1` (R34). -/
def State.setKey (st : State) (i : Nat) (k : Word) : State := { st with key := st.key.set i (some k) }

/-- `ORD[p] <- o; ORDV[p] <- 1` (R35). -/
def State.setOrd (st : State) (p : Nat) (o : Nibble) : State := { st with ord := st.ord.set p (some o) }

/-- Replace the whole side-parameter sequence of slot `i`, and with it `SPLEN[i]` (R36). -/
def State.setSp (st : State) (i : Nat) (words : List Word) : State := { st with sp := st.sp.set i words }

/-! ## Reset -/

/-- Bring every register to its reset value (R44, R233, R281); the parameters are not affected (R281) and the
host's remaining inputs stay the host's (log 7). -/
def State.clearAll (st : State) : State := { State.resetOf st.cfg with input := st.input }

/-- The reset pin (R280, R283): the reset state, and no response, also for a command in flight. -/
def pinReset (st : State) : Result := .next st.clearAll

/-- No command on the channel: the CORE is idle with all state retained and gives no response (R267). -/
def idle (st : State) : Result := .next { st with rsp := none }

/-- A word that decodes to no command (R96, R252). -/
def illegalWord (st : State) (cmd : CmdWord) : Result := .next (st.raise .opcode cmd)

end Sys2Proof.Machine
end

