-- ==== Sys2Proof/Machine/Operands.lean ====
section
/-! DEFINITION. Operand checks and operand assembly (R95, R200, R206, R253, R254). -/

namespace Sys2Proof.Machine

/-- The index test (R253): `IDX` as an unsigned number names a slot or a position of this CORE. -/
def State.hasIndex (st : State) (i : Nibble) : Bool := i.toNat < st.N

/-- The range test of `WRORD` (R254): `WDATA[63:4] = 0`. -/
def fitsNibble (d : Word) : Bool := d.extractLsb' 4 60 == 0#60

/-- `WDATA[3:0]` (R95, R206). -/
def lowNibble (d : Word) : Nibble := d.extractLsb' 0 4

/-- `zext_64` (R9, R213). -/
def zextWord {w : Nat} (x : BitVec w) : Word := x.setWidth 64

end Sys2Proof.Machine
end

