-- ==== Sys2Proof/Machine/KeySchedule.lean ====
section
/-! DEFINITION. The key schedule generator: the mixing functions (R120 to R123), `KSTEP` (R124), `KEYGEN`
(R125). -/

namespace Sys2Proof.Machine

/-- `scramble(s, p)` (R120). -/
def scramble (s p : Word) : Word :=
  let x1 := s ^^^ shl p 17
  let x2 := rotr x1 13
  let x3 := x2 ^^^ shr p 5
  let x4 := x3 ^^^ shl p 29
  let x5 := rotl x4 7
  let x6 := x5 ^^^ shr p 11
  let x7 := x6 ^^^ shl p 19
  let x8 := rotr x7 23
  x8 ^^^ shr p 3

/-- `generate(e, q)` (R121). -/
def generate (e q : Word) : Word :=
  let y1 := e ^^^ q
  let y2 := rotl y1 19
  let y3 := add y2 q
  let y4 := y3 ^^^ shl q 31
  let y5 := rotr y4 11
  let y6 := mul y5 (q ||| 1)
  y6 ||| 1

/-- The product `z6` inside `mutate` (R122). -/
def mutateProduct (s q : Word) : Word :=
  let z1 := s ^^^ shl q 17
  let z2 := rotl z1 13
  let z3 := add z2 q
  let z4 := z3 ^^^ shr q 7
  let z5 := rotr z4 19
  mul z5 (q ||| 1)

/-- `mutate(s, q)` (R122), with the replacement of a zero product. -/
def mutate (s q : Word) : Word :=
  let z6 := mutateProduct s q
  if z6 = 0 then q ^^^ mask64 else z6

/-- One key derivation step (R123): the key, and the seed mutated from the seed the step started with. -/
def keystep (p q s : Word) : Word × Word := (generate (scramble s p) q, mutate s q)

/-- `generateKeys(p, q, s, n)` (R123): the keys in generation order and the final seed. -/
def generateKeys (p q : Word) : Word → Nat → List Word × Word
  | s, 0 => ([], s)
  | s, n + 1 =>
    let (k, s') := keystep p q s
    let (ks, sFinal) := generateKeys p q s' n
    (k :: ks, sFinal)

/-- `KSTEP i` (R124). -/
def execKstep (i : Nibble) (st : State) : Result :=
  if st.hasIndex i then
    match st.p, st.q, st.s with
    | some p, some q, some s =>
      let (k, s') := keystep p q s
      done { st.setKey i.toNat k with s := some s' }
    | _, _, _ => fail st .uninit (.kstep i)
  else fail st .index (.kstep i)

/-- `KEYGEN` (R125). -/
def execKeygen (st : State) : Result :=
  match st.p, st.q, st.s with
  | some p, some q, some s =>
    let (ks, sFinal) := generateKeys p q s st.N
    done { st with key := ks.map some, s := some sFinal }
  | _, _, _ => fail st .uninit .keygen

end Sys2Proof.Machine
end

