-- ==== Sys2Proof/Machine/Catalog.lean ====
section
/-! DEFINITION. The hardwired transform catalog: kind and arity of a slot (R150, R151). -/

namespace Sys2Proof.Machine

/-- The four transform kinds, numbered in table order (R150). -/
inductive Kind where
  | t1
  | t2
  | t3
  | t4
deriving DecidableEq, Repr

/-- The number of a kind (R150). -/
def Kind.number : Kind → BitVec 2
  | .t1 => 0
  | .t2 => 1
  | .t3 => 2
  | .t4 => 3

/-- The number of side-parameter words a kind produces and needs (R151). -/
def Kind.arity : Kind → Nat
  | .t1 => 1
  | .t2 => 1
  | .t3 => 1
  | .t4 => 2

/-- `kind(i) = i mod 4` (R150). -/
def kindOf (i : Nat) : Kind :=
  match i % 4 with
  | 0 => .t1
  | 1 => .t2
  | 2 => .t3
  | _ => .t4

/-- `arity(i)` (R151). -/
def arityOf (i : Nat) : Nat := (kindOf i).arity

end Sys2Proof.Machine
end

