-- ==== Sys2Proof/Machine/Transforms.lean ====
section
/-! DEFINITION. The transform library: T1..T4 (R141 to R148), dispatch (R152), the side-parameter check
(R155), `TENC` (R153), `TDEC` (R154). -/

namespace Sys2Proof.Machine

/-- `T1.encode` (R141). -/
def t1Encode (v k : Word) : Word × List Word :=
  let r := k.toNat % 63 + 1
  (rotl v r ^^^ k, [BitVec.ofNat 64 r])

/-- `T1.decode` with recorded count `r` (R142). -/
def t1Decode (t k r : Word) : Word := rotr (t ^^^ k) r.toNat

/-- `T2.encode` (R143); the mask is the key with its halves exchanged. -/
def t2Encode (v k : Word) : Word × List Word :=
  let mask := rotl k 32
  (rotl (v ^^^ k) 17 ^^^ mask, [mask])

/-- `T2.decode` with recorded `mask` (R144). -/
def t2Decode (t k mask : Word) : Word := rotr (t ^^^ mask) 17 ^^^ k

/-- The low half of a key as a 64-bit word (R145). -/
def low32 (k : Word) : Word := k &&& 0xFFFFFFFF

/-- `T3.encode` (R145); all intermediates are 64 bits wide. -/
def t3Encode (v k : Word) : Word × List Word :=
  let high32 := shr k 32
  (add (rotl (v ^^^ low32 k) 13) high32 ^^^ shl (low32 k) 16, [high32])

/-- `T3.decode` with recorded high half `h` (R146). -/
def t3Decode (t k h : Word) : Word := rotr (sub (t ^^^ shl (low32 k) 16) h) 13 ^^^ low32 k

/-- `T4.encode` (R147). -/
def t4Encode (v k : Word) : Word × List Word :=
  let rot1 := k.toNat % 31 + 1
  let rot2 := (shr k 8).toNat % 31 + 1
  let a := v ^^^ k
  let b := rotl a rot1
  let c := b ^^^ shr k 16
  let d := rotr c rot2
  (d ^^^ shl k 16, [BitVec.ofNat 64 rot1, BitVec.ofNat 64 rot2])

/-- `T4.decode` with recorded counts `r1`, `r2` (R148). -/
def t4Decode (t k r1 r2 : Word) : Word :=
  let d := t ^^^ shl k 16
  let c := rotl d r2.toNat
  let b := c ^^^ shr k 16
  let a := rotr b r1.toNat
  a ^^^ k

/-- `tenc(kind, v, k)` (R152): the transformed word and the side parameters. -/
def tenc (kind : Kind) (v k : Word) : Word × List Word :=
  match kind with
  | .t1 => t1Encode v k
  | .t2 => t2Encode v k
  | .t3 => t3Encode v k
  | .t4 => t4Encode v k

/-- Element `j` of a side-parameter sequence. A decode reads only elements the sequence has: `spcheck` comes
first (R155; log 8). -/
def spWord (sp : List Word) (j : Nat) : Word := sp.getD j 0

/-- `tdec(kind, t, k, sp)` (R152), which uses the recorded words as given (R157). -/
def tdec (kind : Kind) (t k : Word) (sp : List Word) : Word :=
  match kind with
  | .t1 => t1Decode t k (spWord sp 0)
  | .t2 => t2Decode t k (spWord sp 0)
  | .t3 => t3Decode t k (spWord sp 0)
  | .t4 => t4Decode t k (spWord sp 0) (spWord sp 1)

/-- A word usable as a rotation count: 1..63, compared as a full 64-bit number (R155, R156). -/
def isCount (w : Word) : Bool := 1 ≤ w.toNat && w.toNat ≤ 63

/-- `spcheck` for a slot of a given kind (R155): none is pass. -/
def spcheck (kind : Kind) (sp : List Word) : Option ErrCode :=
  if sp.length ≠ kind.arity then some .spArity
  else
    match kind with
    | .t1 => if isCount (spWord sp 0) then none else some .spRange
    | .t2 => none
    | .t3 => none
    | .t4 =>
      if isCount (spWord sp 0) then
        if isCount (spWord sp 1) then none else some .spRange
      else some .spRange

/-- `TENC i` (R153). -/
def execTenc (i : Nibble) (st : State) : Result :=
  if st.hasIndex i then
    match st.v, st.keyAt i.toNat with
    | some v, some k =>
      let (t, sp) := tenc (kindOf i.toNat) v k
      done { st.setSp i.toNat sp with v := some t }
    | _, _ => fail st .uninit (.tenc i)
  else fail st .index (.tenc i)

/-- `TDEC i` (R154). -/
def execTdec (i : Nibble) (st : State) : Result :=
  if st.hasIndex i then
    match st.v, st.keyAt i.toNat with
    | some v, some k =>
      match spcheck (kindOf i.toNat) (st.spAt i.toNat) with
      | none => done { st with v := some (tdec (kindOf i.toNat) v k (st.spAt i.toNat)) }
      | some e => fail st e (.tdec i)
    | _, _ => fail st .uninit (.tdec i)
  else fail st .index (.tdec i)

end Sys2Proof.Machine
end

