-- ==== Sys2Proof/Machine/Orchestrator.lean ====
section
/-! DEFINITION. The block cipher orchestrator: `encodeBlock`, `decodeBlock` (R189), order validity (R186),
the entry checks (R192), `ENC` (R187), `DEC` (R188). -/

namespace Sys2Proof.Machine

/-- `validperm` (R186): every value 0..n-1 occurs exactly once in the order. -/
def validPerm (n : Nat) (order : List Nat) : Bool :=
  (List.range n).all (fun i => order.count i == 1)

/-- `encodeBlock` (R189): the transforms of the slots of an order applied in sequence; the side parameters of
a slot are stored by slot, not by position (R191). -/
def encodeBlock (keys : List Word) : List Nat → Word → List (List Word) → Word × List (List Word)
  | [], w, sps => (w, sps)
  | id :: rest, w, sps =>
    let (t, sp) := tenc (kindOf id) w (keys.getD id 0)
    encodeBlock keys rest t (sps.set id sp)

/-- The decodes of a list of slots, in the order listed. -/
def decodeSlots (keys : List Word) (sps : List (List Word)) : List Nat → Word → Word
  | [], w => w
  | id :: rest, w => decodeSlots keys sps rest (tdec (kindOf id) w (keys.getD id 0) (sps.getD id []))

/-- `decodeBlock` (R189): the order traversed in reverse. -/
def decodeBlock (keys : List Word) (order : List Nat) (sps : List (List Word)) (w : Word) : Word :=
  decodeSlots keys sps order.reverse w

/-- What `ENC` and `DEC` need: the working value, all keys and the whole order (R192 step 1). -/
structure BlockOperands where
  v : Word
  keys : List Word
  order : List Nat
deriving DecidableEq, Repr

/-- Steps 1 and 2 of the entry checks (R192). -/
def State.blockOperands (st : State) : Except ErrCode BlockOperands :=
  match st.v, readFile st.N st.key, readFile st.N st.ord with
  | some v, some keys, some ord =>
    let order := ord.map BitVec.toNat
    if validPerm st.N order then .ok { v := v, keys := keys, order := order } else .error .order
  | _, _, _ => .error .uninit

/-- Step 3 of the entry checks (R192): the first slot, in ascending slot order, whose `spcheck` fails. -/
def State.firstSpError (st : State) : Option ErrCode :=
  (List.range st.N).findSome? (fun i => spcheck (kindOf i) (st.spAt i))

/-- `ENC` (R187). -/
def execEnc (st : State) : Result :=
  match st.blockOperands with
  | .error e => fail st e .enc
  | .ok b =>
    let (w, sps) := encodeBlock b.keys b.order b.v st.sp
    done { st with v := some w, sp := sps }

/-- `DEC` (R188). -/
def execDec (st : State) : Result :=
  match st.blockOperands with
  | .error e => fail st e .dec
  | .ok b =>
    match st.firstSpError with
    | some e => fail st e .dec
    | none => done { st with v := some (decodeBlock b.keys b.order st.sp b.v) }

end Sys2Proof.Machine
end

