-- ==== Sys2Proof/Machine/OrderSelector.lean ====
section
/-! DEFINITION. The order selector: `selectOrder` (R170 to R175) and `SELORD` (R178). -/

namespace Sys2Proof.Machine

/-- `first = floor((c * n) / 16)`, an exact product of natural numbers (R171). -/
def firstTransform (c : Nibble) (n : Nat) : Nat := c.toNat * n / 16

/-- The pattern field: two bits of the control word from bit `PATTERN_LSB` on (R172). -/
def patternOf (lsb : PatternLsb) (c : Nibble) : BitVec 2 := (c >>> lsb.pos).extractLsb' 0 2

/-- All indices but `first`, ascending (R173). -/
def remainingOf (first n : Nat) : List Nat := (List.range n).filter (fun i => i ≠ first)

/-- The list rotated left by one position (R174, pattern 2). -/
def rotateLeftOne : List Nat → List Nat
  | [] => []
  | x :: rest => rest ++ [x]

/-- The list rotated right by one position (R174, pattern 3). -/
def rotateRightOne (xs : List Nat) : List Nat := (rotateLeftOne xs.reverse).reverse

/-- The four arrangements of the remaining list (R174). -/
def arrange (pattern : BitVec 2) (remaining : List Nat) : List Nat :=
  match pattern.toNat with
  | 0 => remaining
  | 1 => remaining.reverse
  | 2 => rotateLeftOne remaining
  | _ => rotateRightOne remaining

/-- `selectOrder(c, n)` (R175). -/
def selectOrder (lsb : PatternLsb) (c : Nibble) (n : Nat) : List Nat :=
  firstTransform c n :: arrange (patternOf lsb c) (remainingOf (firstTransform c n) n)

/-- `SELORD c` (R178); its `IDX` is a control word and is not compared with `N`. -/
def execSelord (c : Nibble) (st : State) : Result :=
  done
    { st with
      ord := (selectOrder st.cfg.patternLsb c st.N).map (fun i => some (BitVec.ofNat 4 i))
      cw := c
      cwv := true }

end Sys2Proof.Machine
end

