-- ==== Sys2Proof/Machine/RegisterAccess.lean ====
section
/-! DEFINITION. The register access commands (R200 to R214). -/

namespace Sys2Proof.Machine

/-- `WRP` (R201). -/
def execWrp (d : Word) (st : State) : Result := done { st with p := some d }

/-- `WRQ` (R202). -/
def execWrq (d : Word) (st : State) : Result := done { st with q := some d }

/-- `WRS` (R203). -/
def execWrs (d : Word) (st : State) : Result := done { st with s := some d }

/-- `WRV` (R204). -/
def execWrv (d : Word) (st : State) : Result := done { st with v := some d }

/-- `WRKEY i` (R205). -/
def execWrkey (i : Nibble) (d : Word) (st : State) : Result :=
  if st.hasIndex i then done (st.setKey i.toNat d) else fail st .index (.wrkey i d)

/-- `WRORD p` (R206); `CW` keeps its value. -/
def execWrord (p : Nibble) (d : Word) (st : State) : Result :=
  if st.hasIndex p then
    if fitsNibble d then done { st.setOrd p.toNat (lowNibble d) with cwv := false }
    else fail st .operand (.wrord p d)
  else fail st .index (.wrord p d)

/-- The sequence after word `j` is written (R207): word 0 makes it one element long, word 1 needs a first
element; none when there is none. -/
def writeSpWord (sp : List Word) (j : BitVec 1) (d : Word) : Option (List Word) :=
  if j = 0 then some [d]
  else
    match sp with
    | [] => none
    | first :: _ => some [first, d]

/-- `WRSP i, j` (R207). -/
def execWrsp (i : Nibble) (j : BitVec 1) (d : Word) (st : State) : Result :=
  if st.hasIndex i then
    match writeSpWord (st.spAt i.toNat) j d with
    | some words => done (st.setSp i.toNat words)
    | none => fail st .spArity (.wrsp i j d)
  else fail st .index (.wrsp i j d)

/-- Reading a register with its flag: `E_UNINIT` when it holds no value (R200, R255). -/
def readFlagged (st : State) (r : Flagged Word) (i : Instr) : Result :=
  match r with
  | some w => answer st w
  | none => fail st .uninit i

/-- `RDP` (R208). -/
def execRdp (st : State) : Result := readFlagged st st.p .rdp

/-- `RDQ` (R209). -/
def execRdq (st : State) : Result := readFlagged st st.q .rdq

/-- `RDS` (R210). -/
def execRds (st : State) : Result := readFlagged st st.s .rds

/-- `RDV` (R211). -/
def execRdv (st : State) : Result := readFlagged st st.v .rdv

/-- `RDKEY i` (R212). -/
def execRdkey (i : Nibble) (st : State) : Result :=
  if st.hasIndex i then readFlagged st (st.keyAt i.toNat) (.rdkey i) else fail st .index (.rdkey i)

/-- `RDORD p` (R213). -/
def execRdord (p : Nibble) (st : State) : Result :=
  if st.hasIndex p then readFlagged st ((st.ordAt p.toNat).map zextWord) (.rdord p)
  else fail st .index (.rdord p)

/-- `RDSP i, j` (R214): the word is read when `j < SPLEN[i]`. -/
def execRdsp (i : Nibble) (j : BitVec 1) (st : State) : Result :=
  if st.hasIndex i then readFlagged st (st.spAt i.toNat)[j.toNat]? (.rdsp i j)
  else fail st .index (.rdsp i j)

end Sys2Proof.Machine
end

