-- ==== Sys2Proof/Machine/Flags.lean ====
section
/-! DEFINITION. The valid flags (R39), `SPLEN` (R36) and the two read-only views `STATUS` (R41) and `SLOT(i)`
(R42). There are no arithmetic condition codes (R40). -/

namespace Sys2Proof.Machine

/-- A flag as one bit. -/
def flagBit (b : Bool) : BitVec 1 := BitVec.ofBool b

/-- `PV` (R39). -/
def State.pv (st : State) : Bool := st.p.isSome

/-- `QV` (R39). -/
def State.qv (st : State) : Bool := st.q.isSome

/-- `SV` (R39). -/
def State.sv (st : State) : Bool := st.s.isSome

/-- `VV` (R39). -/
def State.vv (st : State) : Bool := st.v.isSome

/-- `KEYV[i]` (R39). -/
def State.keyv (st : State) (i : Nat) : Bool := (st.keyAt i).isSome

/-- `ORDV[p]` (R39). -/
def State.ordv (st : State) (p : Nat) : Bool := (st.ordAt p).isSome

/-- `SPLEN[i]` (R36). -/
def State.splen (st : State) (i : Nat) : BitVec 2 := BitVec.ofNat 2 (st.spAt i).length

/-- `KALL`: every `KEYV[i]`, i in 0..N-1 (R41). -/
def State.kall (st : State) : Bool := (List.range st.N).all st.keyv

/-- `OALL`: every `ORDV[p]`, p in 0..N-1 (R41). -/
def State.oall (st : State) : Bool := (List.range st.N).all st.ordv

/-- The `CW` field of `STATUS`: `CW` when `CWV = 1`, else 0 (R38, R41). -/
def State.cwShown (st : State) : Nibble := if st.cwv then st.cw else 0

/-- A field placed with its bit 0 at bit `lo` of a word. -/
def field {w : Nat} (x : BitVec w) (lo : Nat) : Word := x.setWidth 64 <<< lo

/-- The status word (R41); bits in no field are 0. -/
def State.status (st : State) : Word :=
  field st.err 0 ||| field (flagBit st.pv) 4 ||| field (flagBit st.qv) 5 ||| field (flagBit st.sv) 6
    ||| field (flagBit st.vv) 7 ||| field (flagBit st.kall) 8 ||| field (flagBit st.oall) 9
    ||| field (flagBit st.cwv) 10 ||| field st.cwShown 16 ||| field (BitVec.ofNat 5 st.N) 24
    ||| field st.ecmd 32

/-- The slot descriptor (R42); bits in no field are 0. -/
def State.slotWord (st : State) (i : Nat) : Word :=
  field (kindOf i).number 0 ||| field (BitVec.ofNat 2 (arityOf i)) 2 ||| field (st.splen i) 4
    ||| field (flagBit (st.keyv i)) 6

end Sys2Proof.Machine
end

