-- ==== Sys2Proof/Machine/System.lean ====
section
/-! DEFINITION. The system commands (R230 to R234). -/

namespace Sys2Proof.Machine

/-- `NOP` (R230). -/
def execNop (st : State) : Result := done st

/-- `RDST` (R231). -/
def execRdst (st : State) : Result := answer st st.status

/-- `CLRERR` (R232). -/
def execClrerr (st : State) : Result := done st.clearError

/-- `SRST` (R233, R282): the reset state, with a response. -/
def execSrst (st : State) : Result := done st.clearAll

/-- `RDSLOT i` (R234). -/
def execRdslot (i : Nibble) (st : State) : Result :=
  if st.hasIndex i then answer st (st.slotWord i.toNat) else fail st .index (.rdslot i)

end Sys2Proof.Machine
end

