-- ==== Sys2Proof/Machine/Dispatch.lean ====
section
/-! DEFINITION. One arm per command: the meaning of each (R13, check and perform). -/

namespace Sys2Proof.Machine

def exec (instr : Instr) (st : State) : Host.Outcome State Fault Refusal :=
  match instr with
  | .nop => Sys2Proof.Machine.execNop st
  | .rdst => Sys2Proof.Machine.execRdst st
  | .clrerr => Sys2Proof.Machine.execClrerr st
  | .srst => Sys2Proof.Machine.execSrst st
  | .rdslot i => Sys2Proof.Machine.execRdslot i st
  | .wrp d => Sys2Proof.Machine.execWrp d st
  | .wrq d => Sys2Proof.Machine.execWrq d st
  | .wrs d => Sys2Proof.Machine.execWrs d st
  | .wrv d => Sys2Proof.Machine.execWrv d st
  | .wrkey i d => Sys2Proof.Machine.execWrkey i d st
  | .wrord p d => Sys2Proof.Machine.execWrord p d st
  | .wrsp i j d => Sys2Proof.Machine.execWrsp i j d st
  | .rdp => Sys2Proof.Machine.execRdp st
  | .rdq => Sys2Proof.Machine.execRdq st
  | .rds => Sys2Proof.Machine.execRds st
  | .rdv => Sys2Proof.Machine.execRdv st
  | .rdkey i => Sys2Proof.Machine.execRdkey i st
  | .rdord p => Sys2Proof.Machine.execRdord p st
  | .rdsp i j => Sys2Proof.Machine.execRdsp i j st
  | .kstep i => Sys2Proof.Machine.execKstep i st
  | .keygen => Sys2Proof.Machine.execKeygen st
  | .tenc i => Sys2Proof.Machine.execTenc i st
  | .tdec i => Sys2Proof.Machine.execTdec i st
  | .selord c => Sys2Proof.Machine.execSelord c st
  | .enc => Sys2Proof.Machine.execEnc st
  | .dec => Sys2Proof.Machine.execDec st

end Sys2Proof.Machine
end

