-- ==== Sys2Proof/Machine/Execute.lean ====
section
/-! DEFINITION. `execute` of R13: decode, check, perform; and one transfer on the command channel (R91, R92). -/

namespace Sys2Proof.Machine

/-- `execute(state, CMD, WDATA)` (R13): an illegal word raises `E_OPCODE`, before anything else and with no
other effect; any other word runs its command. The new state carries the response in `rsp`. -/
def execute (st : State) (c : Command) : Result :=
  match decode c with
  | .ok i => exec i st
  | .error _ => illegalWord st c.cmd

/-- One input of the host, or none: a command is executed and answered, `rst` resets, and without an input
the CORE is idle (R16, R92, R267, R280). -/
def serve (st : State) : Result :=
  match st.input with
  | [] => idle st
  | .command c :: rest => execute { st with input := rest } c
  | .rst _ :: rest => pinReset { st with input := rest }

/-- The host presents a command next. -/
def State.present (st : State) (c : Command) : State := { st with input := .command c :: st.input }

end Sys2Proof.Machine
end

