-- ==== Sys2Proof/Machine/Step.lean ====
section
/-! DEFINITION. One step of the machine: the CORE serves the host's next input (R16). -/

namespace Sys2Proof.Machine

/-- One step (R16, R92). -/
def step (st : State) : Host.Outcome State Fault Refusal := serve st

/-- The state in which the host presents next the command whose bits are `w` (`CMD` in bits 15:0, `WDATA`
above, the bits above `nbits` zero), so that the next step executes it. -/
def State.withFetchWord (st : State) (nbits w : Nat) : State :=
  st.present (Command.ofNat (w % 2 ^ nbits))

end Sys2Proof.Machine
end

