-- ==== Sys2Proof/Safety.lean ====
section
/-! DEFINITION. The terms claims use: the invariant of R46, commands that succeeded, runs of commands. -/

namespace Sys2Proof.Machine

/-- The register files have one entry per slot (R8, R30). -/
abbrev State.Sized (st : State) : Prop :=
  st.key.length = st.N ∧ st.ord.length = st.N ∧ st.sp.length = st.N

/-- The invariants (a) to (d) of R46, with the sizes of the register files. -/
abbrev State.Inv (st : State) : Prop :=
  st.Sized
  ∧ (∀ words ∈ st.sp, words.length ≤ 2)
  ∧ (st.err = 0 → st.ecmd = 0)
  ∧ st.err.toNat ≤ 7
  ∧ (st.cwv = true →
      st.ord = (selectOrder st.cfg.patternLsb st.cw st.N).map (fun i => some (BitVec.ofNat 4 i)))

/-- The response in `st` reports success (R101). -/
abbrev State.Accepted (st : State) : Prop := st.rsp.map Response.err = some 0

/-- The commands of a list executed one after the other (R78). -/
def execList : List Instr → State → Result
  | [], st => .next st
  | i :: rest, st =>
    match exec i st with
    | .next t => execList rest t
    | .fault r => .fault r
    | .refused r => .refused r

/-- The states after each command of a list, in order; each holds the response to its command (R16). -/
def executions : State → List Command → List State
  | _, [] => []
  | st, c :: rest =>
    match execute st c with
    | .next t => t :: executions t rest
    | .fault _ => []
    | .refused _ => []

/-- A command that clears the error record: `CLRERR` or `SRST` (R40, R264). -/
def clearsRecord (c : Command) : Bool :=
  match decode c with
  | .ok .clrerr => true
  | .ok .srst => true
  | _ => false

end Sys2Proof.Machine
end

