-- ==== Sys2Proof/Certificates/Slice0/Obligations.lean ====
section
/-! DEFINITION. The statements for the provers. Each docstring names the rules of the spec it comes from. A
command's result is stated as an equation for the whole next state, so that everything the equation does not
name is unchanged. -/

open Sys2Proof Sys2Proof.Machine

/-! ## Encoding -/

/-- A word of each family decodes to the command R97 gives it, and two illegal words are rejected by name. -/
def Obligations.SampleWordsDecode : Prop :=
  decode { cmd := 0x0000, wdata := 7 } = .ok .nop
  ∧ decode { cmd := 0x0430, wdata := 0 } = .ok (.rdslot 3)
  ∧ decode { cmd := 0x1631, wdata := 17 } = .ok (.wrsp 3 1 17)
  ∧ decode { cmd := 0x1DF0, wdata := 0 } = .ok (.rdord 15)
  ∧ decode { cmd := 0x2050, wdata := 0 } = .ok (.kstep 5)
  ∧ decode { cmd := 0x3120, wdata := 0 } = .ok (.tdec 2)
  ∧ decode { cmd := 0x4090, wdata := 0 } = .ok (.selord 9)
  ∧ decode { cmd := 0x5100, wdata := 0 } = .ok .dec
  ∧ decode { cmd := 0x2110, wdata := 0 } = .error .reservedField
  ∧ decode { cmd := 0x1700, wdata := 0 } = .error .reservedOpcode

/-- Decoding the words of a command gives the command, with every operand at every value (R93 to R97). -/
def Obligations.EncodeThenDecode : Prop :=
  ∀ i : Instr, decode (encode i) = .ok i

/-- Encoding what a legal word decodes to gives the word again: decoding drops no bit of `CMD`, and of `WDATA`
only that of a command not marked D, which has no effect at all (R93, R97, R100). -/
def Obligations.DecodeThenEncode : Prop :=
  (∀ (c : Command) (i : Instr), decode c = .ok i →
    (encode i).cmd = c.cmd ∧ (i.mnemonic.usesData = true → (encode i).wdata = c.wdata))
  ∧ (∀ (w : CmdWord) (d d' : Word) (i : Instr) (st : State),
      decode { cmd := w, wdata := d } = .ok i → i.mnemonic.usesData = false →
      execute st { cmd := w, wdata := d } = execute st { cmd := w, wdata := d' })

/-- R96: a word selects exactly the one command whose row it matches, and is illegal when it matches none;
an illegal word raises E_OPCODE. Neither `WDATA` nor the state enters. -/
def Obligations.LegalWordsAreTheTable : Prop :=
  (∀ c : Command, (∃ i, decode c = .ok i) ↔
    ∃ m : Mnemonic, c.cmd.extractLsb' 8 8 = m.opcode
      ∧ c.cmd &&& m.format.mask = m.opcode.setWidth 16 <<< 8)
  ∧ (∀ (c : Command) (i : Instr), decode c = .ok i → c.cmd.extractLsb' 8 8 = i.mnemonic.opcode)
  ∧ (∀ m m' : Mnemonic, m.opcode = m'.opcode → m = m')
  ∧ (∀ (st : State) (c : Command), (∀ i, decode c ≠ .ok i) →
      execute st c = .next (st.raise .opcode c.cmd))

/-- R98: the opcodes in no row are exactly the listed ones, and a word with one of them raises E_OPCODE and
has no other effect. -/
def Obligations.ReservedOpcodesRefused : Prop :=
  ∀ op : BitVec 8,
    ((∀ m : Mnemonic, m.opcode ≠ op) ↔
      (0x05 ≤ op.toNat ∧ op.toNat ≤ 0x0F) ∨ op.toNat = 0x17 ∨ op.toNat = 0x1F
      ∨ (0x22 ≤ op.toNat ∧ op.toNat ≤ 0x2F) ∨ (0x32 ≤ op.toNat ∧ op.toNat ≤ 0x3F)
      ∨ (0x41 ≤ op.toNat ∧ op.toNat ≤ 0x4F) ∨ 0x52 ≤ op.toNat)
    ∧ ((∀ m : Mnemonic, m.opcode ≠ op) → ∀ (st : State) (c : Command), c.cmd.extractLsb' 8 8 = op →
        execute st c =
          .next
            { st with
              err := if st.err = 0 then 1 else st.err
              ecmd := if st.err = 0 then c.cmd else st.ecmd
              rsp := some { err := 1, rdata := 0 } })

/-- R99: a word with a 1 in a field its format does not use raises E_OPCODE, with the rule's examples and
their nearest legal words. -/
def Obligations.UnusedFieldsRefused : Prop :=
  (∀ (st : State) (c : Command) (m : Mnemonic), c.cmd.extractLsb' 8 8 = m.opcode →
    c.cmd.extractLsb' 1 3 ≠ 0#3 ∨ (m.format ≠ .s ∧ c.cmd.extractLsb' 0 1 ≠ 0#1)
      ∨ (m.format = .z ∧ c.cmd.extractLsb' 4 4 ≠ 0#4) →
    execute st c = .next (st.raise .opcode c.cmd))
  ∧ (∀ d : Word,
      decode { cmd := 0x0001, wdata := d } = .error .reservedField
      ∧ decode { cmd := 0x2110, wdata := d } = .error .reservedField
      ∧ decode { cmd := 0x1612, wdata := d } = .error .reservedField
      ∧ decode { cmd := 0x3001, wdata := d } = .error .reservedField
      ∧ decode { cmd := 0x0000, wdata := d } = .ok .nop
      ∧ decode { cmd := 0x2100, wdata := d } = .ok .keygen
      ∧ decode { cmd := 0x1610, wdata := d } = .ok (.wrsp 1 0 d)
      ∧ decode { cmd := 0x3000, wdata := d } = .ok (.tenc 0))

/-! ## The channel, reset -/

/-- A step executes the host's next command, legal or not, at the state without that input: a legal word runs
the command it decodes to, an illegal one raises E_OPCODE (R13, R16, R91, R96; the input list is the model's,
log 4). -/
def Obligations.StepExecutesNextCommand : Prop :=
  ∀ (st : State) (c : Command) (rest : List Input), st.input = .command c :: rest →
    step st = execute { st with input := rest } c
    ∧ (∀ i, decode c = .ok i → step st = exec i { st with input := rest })
    ∧ ((∀ i, decode c ≠ .ok i) → step st = .next (State.raise { st with input := rest } .opcode c.cmd))

/-- R280, R283: at `rst` the state becomes the reset state and a command in flight gets no response; every
other transferred command is answered; and with nothing on the channel the CORE keeps its state (R267). How
the host's inputs are listed is the model's choice (log 4, log 7); so is that `rsp` is empty after `rst` and
after an idle step (log 5), and that the data registers hold `none` after `rst` (log 8). -/
def Obligations.PinResetAndIdle : Prop :=
  (∀ (st : State) (f : Option Command) (rest : List Input), st.input = .rst f :: rest →
    step st = .next { State.resetOf st.cfg with input := rest })
  ∧ (∀ (st : State) (c : Command) (rest : List Input), st.input = .command c :: rest →
      ∃ t r, step st = .next t ∧ t.rsp = some r)
  ∧ (∀ st : State, st.input = [] → step st = .next { st with rsp := none })

/-- R44, R281: the reset state for every configuration; that the data registers hold `none` is the model's
form of "holds no value" (R39, log 1), and the empty side-parameter lists are its form of `SPLEN[i] = 0`
(log 2). `State.reset` takes the reference parameters (log 3). -/
def Obligations.ResetState : Prop :=
  (∀ cfg : Config,
    (State.resetOf cfg).cfg = cfg
    ∧ (State.resetOf cfg).p = none ∧ (State.resetOf cfg).q = none
    ∧ (State.resetOf cfg).s = none ∧ (State.resetOf cfg).v = none
    ∧ (∀ i, (State.resetOf cfg).keyAt i = none ∧ (State.resetOf cfg).ordAt i = none
        ∧ (State.resetOf cfg).spAt i = [])
    ∧ (State.resetOf cfg).Sized
    ∧ (State.resetOf cfg).cw = 0 ∧ (State.resetOf cfg).cwv = false
    ∧ (State.resetOf cfg).err = 0 ∧ (State.resetOf cfg).ecmd = 0
    ∧ exec .rdst (State.resetOf cfg) =
        .next
          { State.resetOf cfg with
            rsp := some { err := 0, rdata := BitVec.ofNat 64 (cfg.N * 2 ^ 24) } })
  ∧ State.reset.cfg.N = 4 ∧ State.reset.cfg.patternLsb.pos = 2

/-! ## System commands -/

/-- R230, R232: `NOP` changes nothing and `CLRERR` clears `ERR` and `ECMD`; both ignore `WDATA`. -/
def Obligations.NopAndClrerrEffect : Prop :=
  ∀ (st : State) (d : Word),
    decode { cmd := 0x0000, wdata := d } = .ok .nop
    ∧ exec .nop st = .next { st with rsp := some { err := 0, rdata := 0 } }
    ∧ decode { cmd := 0x0001, wdata := d } = .error .reservedField
    ∧ decode { cmd := 0x0200, wdata := d } = .ok .clrerr
    ∧ exec .clrerr st = .next { st with err := 0, ecmd := 0, rsp := some { err := 0, rdata := 0 } }

/-- R41, R231: `RDST` succeeds in every state, changes nothing and responds with the status word, field by
field. -/
def Obligations.StatusWordFields : Prop :=
  ∀ (st : State) (d : Word),
    decode { cmd := 0x0100, wdata := d } = .ok .rdst
    ∧ ∃ w : Word, exec .rdst st = .next { st with rsp := some { err := 0, rdata := w } }
      ∧ w.extractLsb' 0 4 = st.err
      ∧ w.getLsbD 4 = st.p.isSome ∧ w.getLsbD 5 = st.q.isSome
      ∧ w.getLsbD 6 = st.s.isSome ∧ w.getLsbD 7 = st.v.isSome
      ∧ (w.getLsbD 8 = true ↔ ∀ i, i < st.N → (st.keyAt i).isSome = true)
      ∧ (w.getLsbD 9 = true ↔ ∀ p, p < st.N → (st.ordAt p).isSome = true)
      ∧ w.getLsbD 10 = st.cwv
      ∧ w.extractLsb' 11 5 = 0#5
      ∧ w.extractLsb' 16 4 = (if st.cwv then st.cw else 0)
      ∧ w.extractLsb' 20 4 = 0#4
      ∧ (w.extractLsb' 24 5).toNat = st.N
      ∧ w.extractLsb' 29 3 = 0#3
      ∧ w.extractLsb' 32 16 = st.ecmd
      ∧ w.extractLsb' 48 16 = 0#16

/-- R233: `SRST` clears every flag, every `SPLEN[i]`, `CW`, `CWV`, `ERR` and `ECMD` and responds (0, 0); `RDP`
then raises E_UNINIT. That the data registers hold `none` afterwards is the model's choice (log 8), and so is
that the host's remaining inputs stay (log 4). -/
def Obligations.SrstEffect : Prop :=
  ∀ (st : State) (d : Word),
    decode { cmd := 0x0300, wdata := d } = .ok .srst
    ∧ exec .srst st =
        .next
          { cfg := st.cfg, p := none, q := none, s := none, v := none,
            key := List.replicate st.N none, ord := List.replicate st.N none,
            sp := List.replicate st.N [], cw := 0, cwv := false, err := 0, ecmd := 0,
            input := st.input, rsp := some { err := 0, rdata := 0 } }
    ∧ (∀ t, exec .srst st = .next t → exec .rdp t = .next (t.raise .uninit 0x1800))

/-- R42, R234: `RDSLOT i` responds with the slot descriptor, field by field, and raises E_INDEX for `i` at or
above `N`. -/
def Obligations.SlotDescriptorFields : Prop :=
  ∀ (st : State) (i : Nibble) (d : Word),
    decode { cmd := 0x04#8 ++ i ++ 0#4, wdata := d } = .ok (.rdslot i)
    ∧ (i.toNat < st.N → ∃ w : Word,
        exec (.rdslot i) st = .next { st with rsp := some { err := 0, rdata := w } }
        ∧ (w.extractLsb' 0 2).toNat = i.toNat % 4
        ∧ (w.extractLsb' 2 2).toNat = (if i.toNat % 4 = 3 then 2 else 1)
        ∧ w.extractLsb' 4 2 = BitVec.ofNat 2 (st.spAt i.toNat).length
        ∧ w.getLsbD 6 = (st.keyAt i.toNat).isSome
        ∧ w.extractLsb' 7 57 = 0#57)
    ∧ (st.N ≤ i.toNat →
        exec (.rdslot i) st = .next (st.raise .index (0x04#8 ++ i ++ 0#4)))

/-! ## Register access commands -/

/-- R201 to R204: the four scalar writes take any word and cannot fail. -/
def Obligations.ScalarWritesEffect : Prop :=
  ∀ (st : State) (d : Word),
    decode { cmd := 0x1000, wdata := d } = .ok (.wrp d)
    ∧ exec (.wrp d) st = .next { st with p := some d, rsp := some { err := 0, rdata := 0 } }
    ∧ decode { cmd := 0x1100, wdata := d } = .ok (.wrq d)
    ∧ exec (.wrq d) st = .next { st with q := some d, rsp := some { err := 0, rdata := 0 } }
    ∧ decode { cmd := 0x1200, wdata := d } = .ok (.wrs d)
    ∧ exec (.wrs d) st = .next { st with s := some d, rsp := some { err := 0, rdata := 0 } }
    ∧ decode { cmd := 0x1300, wdata := d } = .ok (.wrv d)
    ∧ exec (.wrv d) st = .next { st with v := some d, rsp := some { err := 0, rdata := 0 } }

/-- R205: `WRKEY i` stores any word as the key of slot `i`, or raises E_INDEX. -/
def Obligations.WrkeyEffect : Prop :=
  ∀ (st : State) (i : Nibble) (d : Word),
    decode { cmd := 0x14#8 ++ i ++ 0#4, wdata := d } = .ok (.wrkey i d)
    ∧ (i.toNat < st.N →
        exec (.wrkey i d) st =
          .next { st with key := st.key.set i.toNat (some d), rsp := some { err := 0, rdata := 0 } })
    ∧ (st.N ≤ i.toNat →
        exec (.wrkey i d) st = .next (st.raise .index (0x14#8 ++ i ++ 0#4)))

/-- R206: `WRORD p` stores any value below 16 and clears `CWV`, `CW` staying as it was; E_INDEX comes before
E_OPERAND. -/
def Obligations.WrordEffect : Prop :=
  ∀ (st : State) (p : Nibble) (d : Word),
    decode { cmd := 0x15#8 ++ p ++ 0#4, wdata := d } = .ok (.wrord p d)
    ∧ (p.toNat < st.N → d.toNat < 16 →
        exec (.wrord p d) st =
          .next
            { st with
              ord := st.ord.set p.toNat (some (BitVec.ofNat 4 d.toNat))
              cwv := false
              rsp := some { err := 0, rdata := 0 } })
    ∧ (p.toNat < st.N → 16 ≤ d.toNat →
        exec (.wrord p d) st = .next (st.raise .operand (0x15#8 ++ p ++ 0#4)))
    ∧ (st.N ≤ p.toNat →
        exec (.wrord p d) st = .next (st.raise .index (0x15#8 ++ p ++ 0#4)))

/-- R207: `WRSP i, 0` makes the sequence of slot `i` one word long; `WRSP i, 1` sets its second word, and
raises E_SPARITY when the sequence is empty. -/
def Obligations.WrspEffect : Prop :=
  ∀ (st : State) (i : Nibble) (j : BitVec 1) (d : Word),
    decode { cmd := 0x16#8 ++ i ++ 0#3 ++ j, wdata := d } = .ok (.wrsp i j d)
    ∧ (i.toNat < st.N →
        exec (.wrsp i 0 d) st =
          .next { st with sp := st.sp.set i.toNat [d], rsp := some { err := 0, rdata := 0 } })
    ∧ (i.toNat < st.N → st.spAt i.toNat = [] →
        exec (.wrsp i 1 d) st = .next (st.raise .spArity (0x16#8 ++ i ++ 1#4)))
    ∧ (∀ w ws, i.toNat < st.N → st.spAt i.toNat = w :: ws →
        exec (.wrsp i 1 d) st =
          .next { st with sp := st.sp.set i.toNat [w, d], rsp := some { err := 0, rdata := 0 } })
    ∧ (st.N ≤ i.toNat →
        exec (.wrsp i j d) st = .next (st.raise .index (0x16#8 ++ i ++ 0#3 ++ j)))

/-- R208 to R211: a scalar read responds with the value of its register, or raises E_UNINIT when the valid
flag is 0. -/
def Obligations.ScalarReadsEffect : Prop :=
  ∀ (st : State) (d : Word),
    decode { cmd := 0x1800, wdata := d } = .ok .rdp
    ∧ decode { cmd := 0x1900, wdata := d } = .ok .rdq
    ∧ decode { cmd := 0x1A00, wdata := d } = .ok .rds
    ∧ decode { cmd := 0x1B00, wdata := d } = .ok .rdv
    ∧ (∀ w, st.p = some w → exec .rdp st = .next { st with rsp := some { err := 0, rdata := w } })
    ∧ (st.p = none → exec .rdp st = .next (st.raise .uninit 0x1800))
    ∧ (∀ w, st.q = some w → exec .rdq st = .next { st with rsp := some { err := 0, rdata := w } })
    ∧ (st.q = none → exec .rdq st = .next (st.raise .uninit 0x1900))
    ∧ (∀ w, st.s = some w → exec .rds st = .next { st with rsp := some { err := 0, rdata := w } })
    ∧ (st.s = none → exec .rds st = .next (st.raise .uninit 0x1A00))
    ∧ (∀ w, st.v = some w → exec .rdv st = .next { st with rsp := some { err := 0, rdata := w } })
    ∧ (st.v = none → exec .rdv st = .next (st.raise .uninit 0x1B00))

/-- R212 to R214: `RDKEY i`, `RDORD p` and `RDSP i, j`; E_INDEX comes before E_UNINIT, an order entry is
zero-extended, and a side-parameter word is read when the sequence has it. -/
def Obligations.FileReadsEffect : Prop :=
  ∀ (st : State) (i : Nibble) (j : BitVec 1) (d : Word),
    decode { cmd := 0x1C#8 ++ i ++ 0#4, wdata := d } = .ok (.rdkey i)
    ∧ (∀ w, i.toNat < st.N → st.keyAt i.toNat = some w →
        exec (.rdkey i) st = .next { st with rsp := some { err := 0, rdata := w } })
    ∧ (i.toNat < st.N → st.keyAt i.toNat = none →
        exec (.rdkey i) st = .next (st.raise .uninit (0x1C#8 ++ i ++ 0#4)))
    ∧ (st.N ≤ i.toNat → exec (.rdkey i) st = .next (st.raise .index (0x1C#8 ++ i ++ 0#4)))
    ∧ decode { cmd := 0x1D#8 ++ i ++ 0#4, wdata := d } = .ok (.rdord i)
    ∧ (∀ o, i.toNat < st.N → st.ordAt i.toNat = some o →
        exec (.rdord i) st =
          .next { st with rsp := some { err := 0, rdata := BitVec.ofNat 64 o.toNat } })
    ∧ (i.toNat < st.N → st.ordAt i.toNat = none →
        exec (.rdord i) st = .next (st.raise .uninit (0x1D#8 ++ i ++ 0#4)))
    ∧ (st.N ≤ i.toNat → exec (.rdord i) st = .next (st.raise .index (0x1D#8 ++ i ++ 0#4)))
    ∧ decode { cmd := 0x1E#8 ++ i ++ 0#3 ++ j, wdata := d } = .ok (.rdsp i j)
    ∧ (∀ (h : j.toNat < (st.spAt i.toNat).length), i.toNat < st.N →
        exec (.rdsp i j) st =
          .next { st with rsp := some { err := 0, rdata := (st.spAt i.toNat)[j.toNat] } })
    ∧ (i.toNat < st.N → (st.spAt i.toNat).length ≤ j.toNat →
        exec (.rdsp i j) st = .next (st.raise .uninit (0x1E#8 ++ i ++ 0#3 ++ j)))
    ∧ (st.N ≤ i.toNat →
        exec (.rdsp i j) st = .next (st.raise .index (0x1E#8 ++ i ++ 0#3 ++ j)))

/-- R71, R74, R78: after an accepted write of one entry of a register file, that entry holds what was written
and every other entry what it held. -/
def Obligations.FileWritesReadBack : Prop :=
  ∀ (st t : State) (i : Nibble) (d : Word), st.Sized → t.Accepted →
    (exec (.wrkey i d) st = .next t →
      ∀ k, t.keyAt k = if k = i.toNat then some d else st.keyAt k)
    ∧ (exec (.wrord i d) st = .next t →
      ∀ k, t.ordAt k = if k = i.toNat then some (BitVec.ofNat 4 d.toNat) else st.ordAt k)
    ∧ (exec (.wrsp i 0 d) st = .next t →
      ∀ k, t.spAt k = if k = i.toNat then [d] else st.spAt k)
    ∧ (exec (.wrsp i 1 d) st = .next t →
      ∀ k, t.spAt k = if k = i.toNat then (st.spAt k).take 1 ++ [d] else st.spAt k)

/-- R74: a write command issued twice in a row with the same operands leaves the same state as issuing it
once. -/
def Obligations.RepeatedWriteChangesNothing : Prop :=
  ∀ (i : Instr) (st t : State),
    i.mnemonic ∈ [.wrp, .wrq, .wrs, .wrv, .wrkey, .wrord, .wrsp] →
    exec i st = .next t → exec i t = .next t

/-! ## Key schedule -/

/-- R120: the steps of `scramble` in the order listed; a bijection of the seed for a fixed parameter; the
corner cases. -/
def Obligations.ScrambleSteps : Prop :=
  ∀ p : Word,
    (∀ s : Word, scramble s p =
      ((((((((s ^^^ (p <<< 17)).rotateRight 13) ^^^ (p >>> 5)) ^^^ (p <<< 29)).rotateLeft 7)
        ^^^ (p >>> 11)) ^^^ (p <<< 19)).rotateRight 23) ^^^ (p >>> 3))
    ∧ Function.Bijective (fun s => scramble s p)
    ∧ (∀ s : Word, scramble s 0 = s.rotateRight 29)

/-- R121: the steps of `generate`; every key is odd; the corner cases; for no `q` is it injective in the
embryo. -/
def Obligations.GenerateSteps : Prop :=
  (∀ e q : Word, generate e q =
    ((((((e ^^^ q).rotateLeft 19) + q) ^^^ (q <<< 31)).rotateRight 11) * (q ||| 1)) ||| 1)
  ∧ (∀ e q : Word, (generate e q).getLsbD 0 = true)
  ∧ generate 0 0 = 1 ∧ generate 1 0 = 0x101 ∧ generate 0 1 = 0x0020000000100101
  ∧ generate 0x0100000000000000 0 = generate 0 0
  ∧ (∀ q : Word, ∃ e e' : Word, e ≠ e' ∧ generate e q = generate e' q)

/-- R122: the steps of `mutate` with the replacement of a zero product; (a) the product is zero for exactly
one seed per `q`; (b) the result is zero for exactly one pair. -/
def Obligations.MutateSteps : Prop :=
  (∀ s q : Word, mutate s q =
    if (((((s ^^^ (q <<< 17)).rotateLeft 13) + q) ^^^ (q >>> 7)).rotateRight 19) * (q ||| 1) = 0
    then q ^^^ 0xFFFFFFFFFFFFFFFF
    else (((((s ^^^ (q <<< 17)).rotateLeft 13) + q) ^^^ (q >>> 7)).rotateRight 19) * (q ||| 1))
  ∧ (∀ s q : Word, mutateProduct s q = 0 ↔ s = ((q >>> 7) - q).rotateRight 13 ^^^ (q <<< 17))
  ∧ (∀ s q : Word, mutate s q = 0 ↔ q = 0xFFFFFFFFFFFFFFFF ∧ s = 0xFFFFEFFFFFFE0000)

/-- R123: one step makes the key from the embryo and the next seed from the seed it started with; the
schedule threads the seed; a shorter schedule is a prefix of a longer one. -/
def Obligations.KeyScheduleUnfolds : Prop :=
  ∀ (p q s : Word) (n : Nat),
    keystep p q s = (generate (scramble s p) q, mutate s q)
    ∧ (generateKeys p q s n).1.length = n
    ∧ (∀ i, i < n → (generateKeys p q s n).1[i]? =
        some (keystep p q ((fun x => mutate x q)^[i] s)).1)
    ∧ (generateKeys p q s n).2 = (fun x => mutate x q)^[n] s
    ∧ (∀ m, m ≤ n → (generateKeys p q s n).1.take m = (generateKeys p q s m).1)

/-- R124: `KSTEP i` derives one key into slot `i` and advances the seed; E_INDEX comes before E_UNINIT. -/
def Obligations.KstepEffect : Prop :=
  ∀ (st : State) (i : Nibble) (d : Word),
    decode { cmd := 0x20#8 ++ i ++ 0#4, wdata := d } = .ok (.kstep i)
    ∧ (∀ p q s, i.toNat < st.N → st.p = some p → st.q = some q → st.s = some s →
        exec (.kstep i) st =
          .next
            { st with
              key := st.key.set i.toNat (some (keystep p q s).1)
              s := some (keystep p q s).2
              rsp := some { err := 0, rdata := 0 } })
    ∧ (i.toNat < st.N → st.p = none ∨ st.q = none ∨ st.s = none →
        exec (.kstep i) st = .next (st.raise .uninit (0x20#8 ++ i ++ 0#4)))
    ∧ (st.N ≤ i.toNat → exec (.kstep i) st = .next (st.raise .index (0x20#8 ++ i ++ 0#4)))

/-- R125: `KEYGEN` writes all N keys and leaves the seed mutated N times, or raises E_UNINIT. -/
def Obligations.KeygenEffect : Prop :=
  ∀ (st : State) (d : Word),
    decode { cmd := 0x2100, wdata := d } = .ok .keygen
    ∧ (∀ p q s, st.p = some p → st.q = some q → st.s = some s →
        exec .keygen st =
          .next
            { st with
              key := (generateKeys p q s st.N).1.map some
              s := some (generateKeys p q s st.N).2
              rsp := some { err := 0, rdata := 0 } })
    ∧ (st.p = none ∨ st.q = none ∨ st.s = none →
        exec .keygen st = .next (st.raise .uninit 0x2100))

/-- R125: `KEYGEN` has exactly the effect of `KSTEP 0; KSTEP 1; ...; KSTEP N-1`. -/
def Obligations.KeygenEqualsKsteps : Prop :=
  ∀ st : State, st.Sized → st.p ≠ none → st.q ≠ none → st.s ≠ none →
    execList ((List.range st.N).map (fun i => .kstep (BitVec.ofNat 4 i))) st = exec .keygen st

/-- R126: every key written by `KSTEP` or `KEYGEN` has bit 0 set; a key written by `WRKEY` need not. -/
def Obligations.DerivedKeysAreOdd : Prop :=
  (∀ (st t : State) (i : Nibble) (k : Word), t.Accepted → exec (.kstep i) st = .next t →
    t.keyAt i.toNat = some k → k.getLsbD 0 = true)
  ∧ (∀ (st t : State) (i : Nat) (k : Word), t.Accepted → exec .keygen st = .next t →
    t.keyAt i = some k → k.getLsbD 0 = true)
  ∧ (∃ t k, exec (.wrkey 0 2) State.reset = .next t ∧ t.keyAt 0 = some k ∧ k.getLsbD 0 = false)

/-! ## Transform library -/

/-- R141 to R148: the eight functions, with the library's rotations; R152: the kind each belongs to. -/
def Obligations.TransformFormulas : Prop :=
  ∀ v k : Word,
    t1Encode v k =
      (v.rotateLeft (k.toNat % 63 + 1) ^^^ k, [BitVec.ofNat 64 (k.toNat % 63 + 1)])
    ∧ (∀ r : Word, 1 ≤ r.toNat → r.toNat ≤ 63 → t1Decode v k r = (v ^^^ k).rotateRight r.toNat)
    ∧ t2Encode v k = ((v ^^^ k).rotateLeft 17 ^^^ k.rotateLeft 32, [k.rotateLeft 32])
    ∧ (∀ mask : Word, t2Decode v k mask = (v ^^^ mask).rotateRight 17 ^^^ k)
    ∧ t3Encode v k =
        (((v ^^^ (k &&& 0xFFFFFFFF)).rotateLeft 13 + (k >>> 32)) ^^^ ((k &&& 0xFFFFFFFF) <<< 16),
          [k >>> 32])
    ∧ (∀ h : Word, t3Decode v k h =
        ((v ^^^ ((k &&& 0xFFFFFFFF) <<< 16)) - h).rotateRight 13 ^^^ (k &&& 0xFFFFFFFF))
    ∧ t4Encode v k =
        (((v ^^^ k).rotateLeft (k.toNat % 31 + 1) ^^^ (k >>> 16)).rotateRight
            ((k >>> 8).toNat % 31 + 1) ^^^ (k <<< 16),
          [BitVec.ofNat 64 (k.toNat % 31 + 1), BitVec.ofNat 64 ((k >>> 8).toNat % 31 + 1)])
    ∧ (∀ r1 r2 : Word, 1 ≤ r1.toNat → r1.toNat ≤ 63 → 1 ≤ r2.toNat → r2.toNat ≤ 63 →
        t4Decode v k r1 r2 =
          ((v ^^^ (k <<< 16)).rotateLeft r2.toNat ^^^ (k >>> 16)).rotateRight r1.toNat ^^^ k)
    ∧ tenc .t1 v k = t1Encode v k ∧ tenc .t2 v k = t2Encode v k
    ∧ tenc .t3 v k = t3Encode v k ∧ tenc .t4 v k = t4Encode v k
    ∧ (∀ r : Word, tdec .t1 v k [r] = t1Decode v k r)
    ∧ (∀ mask : Word, tdec .t2 v k [mask] = t2Decode v k mask)
    ∧ (∀ h : Word, tdec .t3 v k [h] = t3Decode v k h)
    ∧ (∀ r1 r2 : Word, tdec .t4 v k [r1, r2] = t4Decode v k r1 r2)

/-- R149: decode undoes encode for every kind, word and key, so each encode is a bijection of words; the side
parameters depend on the key only. -/
def Obligations.TransformRoundTrip : Prop :=
  ∀ (kind : Kind) (k : Word),
    (∀ x, tdec kind (tenc kind x k).1 k (tenc kind x k).2 = x)
    ∧ Function.Bijective (fun x => (tenc kind x k).1)
    ∧ (∀ x y, (tenc kind x k).2 = (tenc kind y k).2)

/-- R151, R156, R190: what an encode records has the arity of its kind and passes `spcheck`; T1's count is in
1..63 and T4's two counts are in 1..31. -/
def Obligations.EncodePassesSpcheck : Prop :=
  ∀ (kind : Kind) (v k : Word),
    (tenc kind v k).2.length = kind.arity
    ∧ spcheck kind (tenc kind v k).2 = none
    ∧ (∃ r : Word, (tenc .t1 v k).2 = [r] ∧ 1 ≤ r.toNat ∧ r.toNat ≤ 63)
    ∧ (∃ r1 r2 : Word, (tenc .t4 v k).2 = [r1, r2] ∧ 1 ≤ r1.toNat ∧ r1.toNat ≤ 31
        ∧ 1 ≤ r2.toNat ∧ r2.toNat ≤ 31)

/-- R150, R151, R155: the kind and arity of a slot, and the outcomes of `spcheck` for each kind. -/
def Obligations.CatalogAndSpcheck : Prop :=
  (∀ i, kindOf i =
    if i % 4 = 0 then .t1 else if i % 4 = 1 then .t2 else if i % 4 = 2 then .t3 else .t4)
  ∧ (∀ i, arityOf i = if i % 4 = 3 then 2 else 1)
  ∧ (∀ i (sp : List Word), sp.length ≠ arityOf i → spcheck (kindOf i) sp = some .spArity)
  ∧ (∀ w : Word, spcheck .t1 [w] = if 1 ≤ w.toNat ∧ w.toNat ≤ 63 then none else some .spRange)
  ∧ (∀ w : Word, spcheck .t2 [w] = none ∧ spcheck .t3 [w] = none)
  ∧ (∀ w0 w1 : Word, spcheck .t4 [w0, w1] =
      if (1 ≤ w0.toNat ∧ w0.toNat ≤ 63) ∧ (1 ≤ w1.toNat ∧ w1.toNat ≤ 63) then none
      else some .spRange)

/-- R153: `TENC i` replaces `V` and the side parameters of slot `i`; E_INDEX comes before E_UNINIT. -/
def Obligations.TencEffect : Prop :=
  ∀ (st : State) (i : Nibble) (d : Word),
    decode { cmd := 0x30#8 ++ i ++ 0#4, wdata := d } = .ok (.tenc i)
    ∧ (∀ v k, i.toNat < st.N → st.v = some v → st.keyAt i.toNat = some k →
        exec (.tenc i) st =
          .next
            { st with
              v := some (tenc (kindOf i.toNat) v k).1
              sp := st.sp.set i.toNat (tenc (kindOf i.toNat) v k).2
              rsp := some { err := 0, rdata := 0 } })
    ∧ (i.toNat < st.N → st.v = none ∨ st.keyAt i.toNat = none →
        exec (.tenc i) st = .next (st.raise .uninit (0x30#8 ++ i ++ 0#4)))
    ∧ (st.N ≤ i.toNat → exec (.tenc i) st = .next (st.raise .index (0x30#8 ++ i ++ 0#4)))

/-- R154: `TDEC i` replaces `V` only, with the stored side parameters; its errors in their order. -/
def Obligations.TdecEffect : Prop :=
  ∀ (st : State) (i : Nibble) (d : Word),
    decode { cmd := 0x31#8 ++ i ++ 0#4, wdata := d } = .ok (.tdec i)
    ∧ (∀ v k, i.toNat < st.N → st.v = some v → st.keyAt i.toNat = some k →
        spcheck (kindOf i.toNat) (st.spAt i.toNat) = none →
        exec (.tdec i) st =
          .next
            { st with
              v := some (tdec (kindOf i.toNat) v k (st.spAt i.toNat))
              rsp := some { err := 0, rdata := 0 } })
    ∧ (∀ v k e, i.toNat < st.N → st.v = some v → st.keyAt i.toNat = some k →
        spcheck (kindOf i.toNat) (st.spAt i.toNat) = some e →
        exec (.tdec i) st = .next (st.raise e (0x31#8 ++ i ++ 0#4)))
    ∧ (i.toNat < st.N → st.v = none ∨ st.keyAt i.toNat = none →
        exec (.tdec i) st = .next (st.raise .uninit (0x31#8 ++ i ++ 0#4)))
    ∧ (st.N ≤ i.toNat → exec (.tdec i) st = .next (st.raise .index (0x31#8 ++ i ++ 0#4)))

/-- R154: `TENC i` followed by `TDEC i` restores `V`, and changes nothing else that `TENC i` left. -/
def Obligations.TencThenTdecRestores : Prop :=
  ∀ (st t : State) (i : Nibble), st.Sized → exec (.tenc i) st = .next t → t.Accepted →
    exec (.tdec i) t = .next { t with v := st.v }

/-! ## Order selector -/

/-- R170, R176: `selectOrder` returns a permutation of 0..n-1, for every control word, every n from 1 on and
both positions of the pattern field. -/
def Obligations.SelectOrderIsPermutation : Prop :=
  ∀ (lsb : PatternLsb) (c : Nibble) (n : Nat), 1 ≤ n →
    (selectOrder lsb c n).Perm (List.range n)

/-- R171 to R175: the first transform, the pattern field, the remaining list and its four arrangements,
position by position. -/
def Obligations.OrderSelectorParts : Prop :=
  (∀ (c : Nibble) (n : Nat), firstTransform c n = c.toNat * n / 16
    ∧ (1 ≤ n → firstTransform c n ≤ n - 1) ∧ firstTransform c 4 = c.toNat / 4
    ∧ firstTransform c 1 = 0 ∧ firstTransform c 16 = c.toNat)
  ∧ (∀ c : Nibble, patternOf .two c = c.extractLsb' 2 2 ∧ patternOf .zero c = c.extractLsb' 0 2)
  ∧ (∀ first n, first < n → (remainingOf first n).length = n - 1
      ∧ ∀ j, j < n - 1 → (remainingOf first n)[j]? = some (if j < first then j else j + 1))
  ∧ (∀ (r : List Nat) (pattern : BitVec 2), (arrange pattern r).length = r.length)
  ∧ (∀ (r : List Nat) (j : Nat), j < r.length →
      (arrange 0 r)[j]? = r[j]?
      ∧ (arrange 1 r)[j]? = r[r.length - 1 - j]?
      ∧ (arrange 2 r)[j]? = r[(j + 1) % r.length]?
      ∧ (arrange 3 r)[j]? = r[(j + r.length - 1) % r.length]?)
  ∧ (∀ (lsb : PatternLsb) (c : Nibble) (n : Nat), selectOrder lsb c n =
      firstTransform c n :: arrange (patternOf lsb c) (remainingOf (firstTransform c n) n))

/-- R178: `SELORD c` stores the whole order of any control word and cannot fail. -/
def Obligations.SelordEffect : Prop :=
  ∀ (st : State) (c : Nibble) (d : Word),
    decode { cmd := 0x40#8 ++ c ++ 0#4, wdata := d } = .ok (.selord c)
    ∧ exec (.selord c) st =
        .next
          { st with
            ord := (selectOrder st.cfg.patternLsb c st.N).map (fun i => some (BitVec.ofNat 4 i))
            cw := c
            cwv := true
            rsp := some { err := 0, rdata := 0 } }

/-- R256: E_ORDER cannot be raised when `ORD` was last written as a whole by `SELORD`: in no state with the
invariant and `CWV = 1`, by no command, and by none of the commands issued after a `SELORD` as long as no
`WRORD` is among them. -/
def Obligations.SelordMakesOrderValid : Prop :=
  (∀ (st t : State) (i : Instr) (r : Response), st.Inv → st.cwv = true →
    exec i st = .next t → t.rsp = some r → r.err ≠ 5)
  ∧ (∀ (st t : State) (c : Nibble) (cs : List Command), exec (.selord c) st = .next t →
      (∀ cmd ∈ cs, ∀ p d, decode cmd ≠ .ok (.wrord p d)) →
      ∀ u ∈ executions t cs, ∀ r, u.rsp = some r → r.err ≠ 5)

/-! ## Orchestrator -/

/-- R186: every value below n exactly once, equivalently every entry below n and no two positions equal,
equivalently a permutation of 0..n-1. -/
def Obligations.ValidPermMeaning : Prop :=
  ∀ (n : Nat) (order : List Nat), order.length = n →
    (validPerm n order = true ↔ ∀ i, i < n → order.count i = 1)
    ∧ (validPerm n order = true ↔ (∀ x ∈ order, x < n) ∧ order.Nodup)
    ∧ (validPerm n order = true ↔ order.Perm (List.range n))

/-- R189, R191: `encodeBlock` position by position, side parameters stored by slot; `decodeBlock` in reverse
order. That a missing key counts as 0 and a missing entry of the side parameters as the empty list is the
model's choice (log 8). -/
def Obligations.BlockFunctionsUnfold : Prop :=
  ∀ (keys : List Word) (id : Nat) (order : List Nat) (w : Word) (sps : List (List Word)),
    encodeBlock keys [] w sps = (w, sps)
    ∧ encodeBlock keys (id :: order) w sps =
        encodeBlock keys order (tenc (kindOf id) w (keys.getD id 0)).1
          (sps.set id (tenc (kindOf id) w (keys.getD id 0)).2)
    ∧ decodeBlock keys [] sps w = w
    ∧ decodeBlock keys (order ++ [id]) sps w =
        decodeBlock keys order sps (tdec (kindOf id) w (keys.getD id 0) (sps.getD id []))

/-- R192: the entry checks of `ENC` and `DEC` in their order; a refused command leaves `V` and the side
parameters as they were. -/
def Obligations.BlockEntryChecks : Prop :=
  ∀ st : State,
    (st.v = none ∨ (∃ i, i < st.N ∧ st.keyAt i = none) ∨ (∃ p, p < st.N ∧ st.ordAt p = none) →
      exec .enc st = .next (st.raise .uninit 0x5000)
      ∧ exec .dec st = .next (st.raise .uninit 0x5100))
    ∧ (st.v ≠ none → (∀ i, i < st.N → st.keyAt i ≠ none) → (∀ p, p < st.N → st.ordAt p ≠ none) →
        ¬ (∀ i, i < st.N → ∃! p, p < st.N ∧ st.ordAt p = some (BitVec.ofNat 4 i)) →
        exec .enc st = .next (st.raise .order 0x5000)
        ∧ exec .dec st = .next (st.raise .order 0x5100))
    ∧ (st.v ≠ none → (∀ i, i < st.N → st.keyAt i ≠ none) → (∀ p, p < st.N → st.ordAt p ≠ none) →
        (∀ i, i < st.N → ∃! p, p < st.N ∧ st.ordAt p = some (BitVec.ofNat 4 i)) →
        (∃ t, exec .enc st = .next t ∧ t.Accepted)
        ∧ ∀ i e, i < st.N → (∀ j, j < i → spcheck (kindOf j) (st.spAt j) = none) →
            spcheck (kindOf i) (st.spAt i) = some e →
            exec .dec st = .next (st.raise e 0x5100))

/-- R187, R188: `ENC` applies the slots in the order `ORD` to `V` and stores every slot's side parameters;
`DEC` undoes them in the reverse order with the stored side parameters and changes `V` only. -/
def Obligations.EncDecEffect : Prop :=
  ∀ (st : State) (d v : Word) (keys : List Word) (ord : List Nibble),
    decode { cmd := 0x5000, wdata := d } = .ok .enc
    ∧ (st.v = some v → keys.length = st.N → (∀ i, i < st.N → st.keyAt i = keys[i]?) →
        ord.length = st.N → (∀ p, p < st.N → st.ordAt p = ord[p]?) →
        (ord.map BitVec.toNat).Perm (List.range st.N) →
        exec .enc st =
          .next
            { st with
              v := some (encodeBlock keys (ord.map BitVec.toNat) v st.sp).1
              sp := (encodeBlock keys (ord.map BitVec.toNat) v st.sp).2
              rsp := some { err := 0, rdata := 0 } })
    ∧ decode { cmd := 0x5100, wdata := d } = .ok .dec
    ∧ (st.v = some v → keys.length = st.N → (∀ i, i < st.N → st.keyAt i = keys[i]?) →
        ord.length = st.N → (∀ p, p < st.N → st.ordAt p = ord[p]?) →
        (ord.map BitVec.toNat).Perm (List.range st.N) →
        (∀ i, i < st.N → spcheck (kindOf i) (st.spAt i) = none) →
        exec .dec st =
          .next
            { st with
              v := some (decodeBlock keys (ord.map BitVec.toNat) st.sp v)
              rsp := some { err := 0, rdata := 0 } })

/-- R187: when its checks pass, `ENC` has exactly the effect of `TENC ORD[0]; ...; TENC ORD[N-1]`. -/
def Obligations.EncEqualsTencs : Prop :=
  ∀ (st t : State) (ord : List Nibble), st.Sized → st.ord = ord.map some →
    exec .enc st = .next t → t.Accepted → execList (ord.map Instr.tenc) st = .next t

/-- R188: when its checks pass, `DEC` has exactly the effect of `TDEC ORD[N-1]; ...; TDEC ORD[0]`. -/
def Obligations.DecEqualsTdecs : Prop :=
  ∀ (st t : State) (ord : List Nibble), st.Sized → st.ord = ord.map some →
    exec .dec st = .next t → t.Accepted → execList (ord.reverse.map Instr.tdec) st = .next t

/-- R190: after an accepted `ENC`, a `DEC` from any state with the same `V`, `KEY`, `ORD` and side parameters
(whatever else was written in between) succeeds and restores the block. -/
def Obligations.EncThenDecRestoresBlock : Prop :=
  ∀ st t u : State, st.Sized → exec .enc st = .next t → t.Accepted →
    u.cfg = t.cfg → u.v = t.v → u.key = t.key → u.ord = t.ord → u.sp = t.sp →
    exec .dec u = .next { u with v := st.v, rsp := some { err := 0, rdata := 0 } }

/-- R193, R194: the result of `ENC` depends on `V`, `KEY` and `ORD` alone, and the side parameters it leaves
on `KEY` alone. -/
def Obligations.EncDependsOnOperandsOnly : Prop :=
  ∀ st₁ st₂ t₁ t₂ : State, st₁.Sized → st₂.Sized → st₁.cfg = st₂.cfg → st₁.key = st₂.key →
    exec .enc st₁ = .next t₁ → exec .enc st₂ = .next t₂ → t₁.Accepted → t₂.Accepted →
    t₁.sp = t₂.sp ∧ (st₁.v = st₂.v → st₁.ord = st₂.ord → t₁.v = t₂.v)

/-- R17, R111, R190: `ENCBLK c, b` on a CORE with all keys written succeeds for every control word and block,
and `DECBLK` of its final value gives the block back. -/
def Obligations.BlockMacrosRoundTrip : Prop :=
  ∀ (st : State) (c : Nibble) (b : Word), st.Sized → (∀ i, i < st.N → st.keyAt i ≠ none) →
    ∃ t f, execList (Macro.expand st.N (.encblk c b)) st = .next t ∧ t.Accepted ∧ t.v = some f
      ∧ ∃ u, execList (Macro.expand st.N (.decblk f)) t = .next u ∧ u.Accepted ∧ u.v = some b

/-- R17, R111: `GENKEYS p, q, s` leaves the document's `generateKeys(p, q, s, N)` in the key registers, and
`RDKEY` reads them. -/
def Obligations.GenkeysGivesSchedule : Prop :=
  ∀ (st : State) (p q s : Word),
    ∃ t, execList (Macro.expand st.N (.genkeys p q s)) st = .next t ∧ t.Accepted
      ∧ t.key = (generateKeys p q s st.N).1.map some ∧ t.s = some (generateKeys p q s st.N).2
      ∧ ∀ (i : Nibble) (k : Word), i.toNat < st.N → (generateKeys p q s st.N).1[i.toNat]? = some k →
          exec (.rdkey i) t = .next { t with rsp := some { err := 0, rdata := k } }

/-! ## Errors and the whole machine -/

/-- R262, R263: a command that answers an error code changes nothing but `ERR` and `ECMD`, which record it
only when `ERR` was 0, and its `RDATA` is 0. -/
def Obligations.RefusedCommandsArePrecise : Prop :=
  ∀ (i : Instr) (st t : State) (r : Response), exec i st = .next t → t.rsp = some r → r.err ≠ 0 →
    r.rdata = 0
    ∧ t =
      { st with
        err := if st.err = 0 then r.err else st.err
        ecmd := if st.err = 0 then i.word else st.ecmd
        rsp := some r }

/-- R92, R101, R265: every command word in every state is answered with exactly one response, whose code is
one of 0..7; the CORE never halts. -/
def Obligations.EveryCommandIsAnswered : Prop :=
  ∀ (st : State) (c : Command),
    ∃ t r, execute st c = .next t ∧ t.rsp = some r ∧ r.err.toNat ≤ 7

/-- R259: which commands can raise which error. -/
def Obligations.ErrorsPerCommand : Prop :=
  ∀ (i : Instr) (st t : State) (r : Response), exec i st = .next t → t.rsp = some r →
    r.err ≠ 1
    ∧ (r.err = 2 → i.mnemonic ∈
        [.rdslot, .wrkey, .wrord, .wrsp, .rdkey, .rdord, .rdsp, .kstep, .tenc, .tdec])
    ∧ (r.err = 3 → i.mnemonic = .wrord)
    ∧ (r.err = 4 → i.mnemonic ∈
        [.rdp, .rdq, .rds, .rdv, .rdkey, .rdord, .rdsp, .kstep, .keygen, .tenc, .tdec, .enc, .dec])
    ∧ (r.err = 5 → i.mnemonic ∈ [.enc, .dec])
    ∧ (r.err = 6 → i.mnemonic ∈ [.wrsp, .tdec, .dec])
    ∧ (r.err = 7 → i.mnemonic ∈ [.tdec, .dec])

/-- R45: the complete set of commands that may change each piece of state; the parameters and the host's
inputs are changed by none. -/
def Obligations.WriteMatrix : Prop :=
  ∀ (i : Instr) (st t : State), exec i st = .next t →
    t.cfg = st.cfg ∧ t.input = st.input
    ∧ (i.mnemonic ∉ [.wrp, .srst] → t.p = st.p)
    ∧ (i.mnemonic ∉ [.wrq, .srst] → t.q = st.q)
    ∧ (i.mnemonic ∉ [.wrs, .kstep, .keygen, .srst] → t.s = st.s)
    ∧ (i.mnemonic ∉ [.wrv, .tenc, .tdec, .enc, .dec, .srst] → t.v = st.v)
    ∧ (i.mnemonic ∉ [.wrkey, .kstep, .keygen, .srst] → t.key = st.key)
    ∧ (i.mnemonic ∉ [.wrord, .selord, .srst] → t.ord = st.ord)
    ∧ (i.mnemonic ∉ [.wrsp, .tenc, .enc, .srst] → t.sp = st.sp)
    ∧ (i.mnemonic ∉ [.selord, .srst] → t.cw = st.cw)
    ∧ (i.mnemonic ∉ [.wrord, .selord, .srst] → t.cwv = st.cwv)
    ∧ (i.mnemonic ∉ [.clrerr, .srst] → t.Accepted → t.err = st.err ∧ t.ecmd = st.ecmd)

/-- R46 (e), (f): a valid flag that is 1 stays 1 until reset or `SRST`, and `P`, `Q` take a value by `WRP`,
`WRQ` only. -/
def Obligations.FlagsStaySet : Prop :=
  ∀ (i : Instr) (st t : State), st.Sized → exec i st = .next t → i ≠ .srst →
    (st.p.isSome = true → t.p.isSome = true) ∧ (st.q.isSome = true → t.q.isSome = true)
    ∧ (st.s.isSome = true → t.s.isSome = true) ∧ (st.v.isSome = true → t.v.isSome = true)
    ∧ (∀ k, (st.keyAt k).isSome = true → (t.keyAt k).isSome = true)
    ∧ (∀ p, (st.ordAt p).isSome = true → (t.ordAt p).isSome = true)
    ∧ (∀ k, st.spAt k ≠ [] → t.spAt k ≠ [])
    ∧ (∀ w, t.p = some w → st.p ≠ some w → i = .wrp w)
    ∧ (∀ w, t.q = some w → st.q ≠ some w → i = .wrq w)

/-- R265: `ERR` and `ECMD` are read by no check: two states that differ only there (and in the host's inputs
and the last response) get the same response to every command but `RDST`, and the same registers. -/
def Obligations.ErrorRecordReadByNoCheck : Prop :=
  ∀ (i : Instr) (st t : State) (err : BitVec 4) (ecmd : CmdWord) (input : List Input)
    (rsp : Option Response), i ≠ .rdst → exec i st = .next t →
    ∃ u, exec i { st with err := err, ecmd := ecmd, input := input, rsp := rsp } = .next u
      ∧ u = { t with err := u.err, ecmd := u.ecmd, input := input }

/-- R40, R265: from a state with `ERR = 0`, through commands none of which clears the record, `ERR = 0` at the
end says exactly that no command was refused. -/
def Obligations.ErrZeroMeansNothingRefused : Prop :=
  ∀ (st : State) (cs : List Command), st.err = 0 → (∀ c ∈ cs, clearsRecord c = false) →
    ((∀ t ∈ executions st cs, t.Accepted) ↔ ((executions st cs).getLastD st).err = 0)

/-- R46 (a) to (d): every step from a state with the invariant gives a state with the invariant. -/
def Obligations.StepKeepsInvariant : Prop :=
  ∀ st t : State, st.Inv → step st = .next t → t.Inv

/-- R46: the reset state of every configuration has the invariant. -/
def Obligations.ResetHasInvariant : Prop :=
  State.reset.Inv ∧ ∀ cfg : Config, (State.resetOf cfg).Inv
end

