-- ==== Sys2Proof/Laws/Arith.lean ====
section
/-! SUPPORT. The laws of the primitives that R11 states, and the rotations as rotations of bit vectors. -/

namespace Sys2Proof.Machine

theorem rotl_eq_rotateLeft (x : Word) {r : Nat} (h : r < 64) : rotl x r = x.rotateLeft r := by
  unfold rotl shl shr
  split
  · subst r; rw [BitVec.rotateLeft_def]; simp [BitVec.ushiftRight_eq_zero (x := x) (n := 64) (le_refl _)]
  · rw [BitVec.rotateLeft_def, Nat.mod_eq_of_lt h]

theorem rotr_eq_rotateRight (x : Word) {r : Nat} (h : r < 64) : rotr x r = x.rotateRight r := by
  unfold rotr shl shr
  split
  · subst r; rw [BitVec.rotateRight_def]; simp
  · rw [BitVec.rotateRight_def, Nat.mod_eq_of_lt h]

theorem rotateRight_rotateLeft (x : Word) {r : Nat} (h : r < 64) :
    (x.rotateLeft r).rotateRight r = x := by
  ext i hi
  simp only [BitVec.getElem_rotateRight, BitVec.getElem_rotateLeft, Nat.mod_eq_of_lt h]
  split
  · rw [dif_neg (by omega)]; congr 1; omega
  · rw [dif_pos (by omega)]; congr 1; omega

theorem rotateLeft_rotateRight (x : Word) {r : Nat} (h : r < 64) :
    (x.rotateRight r).rotateLeft r = x := by
  ext i hi
  simp only [BitVec.getElem_rotateRight, BitVec.getElem_rotateLeft, Nat.mod_eq_of_lt h]
  split
  · rw [dif_neg (by omega)]; congr 1; omega
  · rw [dif_pos (by omega)]; congr 1; omega

/-- `rotr(rotl(x, r), r) = x` (R11). -/
theorem rotr_rotl (x : Word) {r : Nat} (h : r < 64) : rotr (rotl x r) r = x := by
  rw [rotl_eq_rotateLeft x h, rotr_eq_rotateRight _ h, rotateRight_rotateLeft x h]

/-- `rotl(rotr(x, r), r) = x` (R11). -/
theorem rotl_rotr (x : Word) {r : Nat} (h : r < 64) : rotl (rotr x r) r = x := by
  rw [rotr_eq_rotateRight x h, rotl_eq_rotateLeft _ h, rotateLeft_rotateRight x h]

/-- `sub(add(x, y), y) = x` (R11). -/
@[simp] theorem sub_add (x y : Word) : sub (add x y) y = x := by simp [sub, add]

/-- `add(sub(x, y), y) = x`. -/
@[simp] theorem add_sub (x y : Word) : add (sub x y) y = x := by simp [sub, add]

/-- `(x ^ y) ^ y = x` (R11). -/
theorem xor_xor_self (x y : Word) : x ^^^ y ^^^ y = x := by simp

/-- `q | 1` is odd, so multiplying by it is invertible mod 2^64 (R121, R122). -/
theorem exists_mul_or_one_eq_one (q : Word) : ∃ m : Word, m * (q ||| 1) = 1 := by
  have odd : (q ||| 1).toNat % 2 = 1 := by simp
  have coprime : Nat.Coprime (q ||| 1).toNat (2 ^ 64) :=
    Nat.Coprime.pow_right _ (Nat.coprime_two_right.2 (Nat.odd_iff.2 odd))
  obtain ⟨m, _, hm⟩ := Nat.exists_mul_mod_eq_one_of_coprime coprime (by norm_num)
  refine ⟨BitVec.ofNat 64 m, BitVec.eq_of_toNat_eq ?_⟩
  simp only [BitVec.toNat_mul, BitVec.toNat_ofNat]
  rw [Nat.mod_mul_mod, Nat.mul_comm]
  simpa using hm

end Sys2Proof.Machine
end

