-- ==== Sys2Proof/Laws/Decode.lean ====
section
/-! SUPPORT. What the decoder and the encoder do on one row of the opcode map. -/

namespace Sys2Proof

/-- A word that matches a row decodes to the command of that row, with the word's fields (R96). -/
theorem decode_of_row {w : CmdWord} {m : Mnemonic} (d : Word)
    (hop : Mnemonic.ofOpcode (CmdWord.op w) = some m)
    (hmask : w &&& m.format.mask = m.opcode.setWidth 16 <<< 8) :
    decode { cmd := w, wdata := d } = .ok (m.toInstr (CmdWord.idx w) (CmdWord.sel w) d) := by
  simp only [decode, hop, hmask, if_true]

/-- The only ways a word decodes or is illegal (R96). -/
theorem decode_cases (c : Command) :
    (∃ m, Mnemonic.ofOpcode (CmdWord.op c.cmd) = some m
      ∧ c.cmd &&& m.format.mask = m.opcode.setWidth 16 <<< 8
      ∧ decode c = .ok (m.toInstr (CmdWord.idx c.cmd) (CmdWord.sel c.cmd) c.wdata))
    ∨ (∃ m, Mnemonic.ofOpcode (CmdWord.op c.cmd) = some m
      ∧ c.cmd &&& m.format.mask ≠ m.opcode.setWidth 16 <<< 8
      ∧ decode c = .error .reservedField)
    ∨ (Mnemonic.ofOpcode (CmdWord.op c.cmd) = none ∧ decode c = .error .reservedOpcode) := by
  cases hop : Mnemonic.ofOpcode (CmdWord.op c.cmd) with
  | none => exact .inr (.inr ⟨rfl, by simp only [decode, hop]⟩)
  | some m =>
    by_cases hmask : c.cmd &&& m.format.mask = m.opcode.setWidth 16 <<< 8
    · exact .inl ⟨m, rfl, hmask, by simp only [decode, hop, hmask, if_true]⟩
    · exact .inr (.inl ⟨m, rfl, hmask, by simp only [decode, hop, hmask, if_false]⟩)

/-- Every row is found by its own opcode. -/
theorem ofOpcode_opcode (m : Mnemonic) : Mnemonic.ofOpcode m.opcode = some m := by
  cases m <;> decide

/-- The row found for an opcode has that opcode. -/
theorem opcode_of_ofOpcode {op : BitVec 8} {m : Mnemonic} (h : Mnemonic.ofOpcode op = some m) :
    m.opcode = op := by
  simpa using List.find?_some h

/-- An opcode is in no row exactly when the table finds none. -/
theorem ofOpcode_eq_none (op : BitVec 8) :
    Mnemonic.ofOpcode op = none ↔ ∀ m : Mnemonic, m.opcode ≠ op := by
  constructor
  · rintro h m rfl
    exact absurd (ofOpcode_opcode m) (by simp [h])
  · intro h
    cases hm : Mnemonic.ofOpcode op with
    | none => rfl
    | some m => exact absurd (opcode_of_ofOpcode hm) (h m)

/-- The row of the command a row makes of fields is the row. -/
@[simp] theorem toInstr_mnemonic (m : Mnemonic) (i : Nibble) (j : BitVec 1) (d : Word) :
    (m.toInstr i j d).mnemonic = m := by
  cases m <;> rfl

/-- The fields of a command word are the fields it was made of. -/
theorem op_word (i : Instr) : CmdWord.op i.word = i.mnemonic.opcode := by
  ext k hk
  simp only [CmdWord.op, Instr.word, BitVec.getElem_extractLsb', BitVec.getLsbD_or,
    BitVec.getLsbD_shiftLeft, BitVec.getLsbD_setWidth]
  have h4 : i.idxField.getLsbD (8 + k - 4) = false := BitVec.getLsbD_of_ge _ _ (by omega)
  have h1 : i.selField.getLsbD (8 + k) = false := BitVec.getLsbD_of_ge _ _ (by omega)
  have h16 : 8 + k < 16 := by omega
  have hk16 : k < 16 := by omega
  simp [h4, h1, h16, hk, hk16]

theorem idx_word (i : Instr) : CmdWord.idx i.word = i.idxField := by
  ext k hk
  simp only [CmdWord.idx, Instr.word, BitVec.getElem_extractLsb', BitVec.getLsbD_or,
    BitVec.getLsbD_shiftLeft, BitVec.getLsbD_setWidth]
  have h1 : i.selField.getLsbD (4 + k) = false := BitVec.getLsbD_of_ge _ _ (by omega)
  have h8 : 4 + k < 8 := by omega
  have h16 : 4 + k < 16 := by omega
  have hk16 : k < 16 := by omega
  simp [h1, h8, h16, hk, hk16]

theorem sel_word (i : Instr) : CmdWord.sel i.word = i.selField := by
  ext k hk
  have hk0 : k = 0 := by omega
  subst hk0
  simp [CmdWord.sel, Instr.word]

/-- The word of a command has the fixed bits of its row (R94). -/
theorem word_and_mask (i : Instr) :
    i.word &&& i.mnemonic.format.mask = i.mnemonic.opcode.setWidth 16 <<< 8 := by
  have row : ∀ (m : Mnemonic) (x : Nibble) (j : BitVec 1),
      (m.opcode.setWidth 16 <<< 8 ||| (if m.format = .z then 0#4 else x).setWidth 16 <<< 4
        ||| (if m.format = .s then j else 0#1).setWidth 16) &&& m.format.mask
      = m.opcode.setWidth 16 <<< 8 := by
    intro m
    cases m <;> decide
  have h := row i.mnemonic i.idxField i.selField
  cases i <;> exact h

end Sys2Proof
end

