-- ==== Sys2Proof/Laws/Flags.lean ====
section
/-! SUPPORT. The bits of a word built from placed fields. -/

namespace Sys2Proof.Machine

@[simp] theorem field_getLsbD {w : Nat} (x : BitVec w) (lo k : Nat) :
    (field x lo).getLsbD k = (decide (k < 64) && decide (lo ≤ k) && x.getLsbD (k - lo)) := by
  simp only [field, BitVec.getLsbD_shiftLeft, BitVec.getLsbD_setWidth]
  by_cases h : k < 64 <;> by_cases h' : lo ≤ k <;> simp [h, h', Nat.not_lt.mpr]
  all_goals omega

@[simp] theorem flagBit_getLsbD (b : Bool) (k : Nat) : (flagBit b).getLsbD k = (decide (k = 0) && b) := by
  cases b <;> cases k <;> simp [flagBit]

end Sys2Proof.Machine
end

