-- ==== Sys2Proof/Laws/State.lean ====
section
/-! SUPPORT. What each update of the state leaves in each field: one lemma per field per update. -/

namespace Sys2Proof.Machine

/-! ## `raise` -/

@[simp] theorem State.raise_cfg (st : State) (e : ErrCode) (cmd : CmdWord) : (st.raise e cmd).cfg = st.cfg := rfl
@[simp] theorem State.raise_p (st : State) (e : ErrCode) (cmd : CmdWord) : (st.raise e cmd).p = st.p := rfl
@[simp] theorem State.raise_q (st : State) (e : ErrCode) (cmd : CmdWord) : (st.raise e cmd).q = st.q := rfl
@[simp] theorem State.raise_s (st : State) (e : ErrCode) (cmd : CmdWord) : (st.raise e cmd).s = st.s := rfl
@[simp] theorem State.raise_v (st : State) (e : ErrCode) (cmd : CmdWord) : (st.raise e cmd).v = st.v := rfl
@[simp] theorem State.raise_key (st : State) (e : ErrCode) (cmd : CmdWord) : (st.raise e cmd).key = st.key := rfl
@[simp] theorem State.raise_ord (st : State) (e : ErrCode) (cmd : CmdWord) : (st.raise e cmd).ord = st.ord := rfl
@[simp] theorem State.raise_sp (st : State) (e : ErrCode) (cmd : CmdWord) : (st.raise e cmd).sp = st.sp := rfl
@[simp] theorem State.raise_cw (st : State) (e : ErrCode) (cmd : CmdWord) : (st.raise e cmd).cw = st.cw := rfl
@[simp] theorem State.raise_cwv (st : State) (e : ErrCode) (cmd : CmdWord) : (st.raise e cmd).cwv = st.cwv := rfl
@[simp] theorem State.raise_err (st : State) (e : ErrCode) (cmd : CmdWord) : (st.raise e cmd).err = if st.err = 0 then e.code else st.err := rfl
@[simp] theorem State.raise_ecmd (st : State) (e : ErrCode) (cmd : CmdWord) : (st.raise e cmd).ecmd = if st.err = 0 then cmd else st.ecmd := rfl
@[simp] theorem State.raise_input (st : State) (e : ErrCode) (cmd : CmdWord) : (st.raise e cmd).input = st.input := rfl
@[simp] theorem State.raise_rsp (st : State) (e : ErrCode) (cmd : CmdWord) : (st.raise e cmd).rsp = some { err := e.code, rdata := 0 } := rfl
@[simp] theorem State.raise_N (st : State) (e : ErrCode) (cmd : CmdWord) : (st.raise e cmd).N = st.N := rfl

/-! ## `clearError` -/

@[simp] theorem State.clearError_cfg (st : State) : (st.clearError).cfg = st.cfg := rfl
@[simp] theorem State.clearError_p (st : State) : (st.clearError).p = st.p := rfl
@[simp] theorem State.clearError_q (st : State) : (st.clearError).q = st.q := rfl
@[simp] theorem State.clearError_s (st : State) : (st.clearError).s = st.s := rfl
@[simp] theorem State.clearError_v (st : State) : (st.clearError).v = st.v := rfl
@[simp] theorem State.clearError_key (st : State) : (st.clearError).key = st.key := rfl
@[simp] theorem State.clearError_ord (st : State) : (st.clearError).ord = st.ord := rfl
@[simp] theorem State.clearError_sp (st : State) : (st.clearError).sp = st.sp := rfl
@[simp] theorem State.clearError_cw (st : State) : (st.clearError).cw = st.cw := rfl
@[simp] theorem State.clearError_cwv (st : State) : (st.clearError).cwv = st.cwv := rfl
@[simp] theorem State.clearError_err (st : State) : (st.clearError).err = 0 := rfl
@[simp] theorem State.clearError_ecmd (st : State) : (st.clearError).ecmd = 0 := rfl
@[simp] theorem State.clearError_input (st : State) : (st.clearError).input = st.input := rfl
@[simp] theorem State.clearError_rsp (st : State) : (st.clearError).rsp = st.rsp := rfl
@[simp] theorem State.clearError_N (st : State) : (st.clearError).N = st.N := rfl

/-! ## `respond` -/

@[simp] theorem State.respond_cfg (st : State) (v : Word) : (st.respond v).cfg = st.cfg := rfl
@[simp] theorem State.respond_p (st : State) (v : Word) : (st.respond v).p = st.p := rfl
@[simp] theorem State.respond_q (st : State) (v : Word) : (st.respond v).q = st.q := rfl
@[simp] theorem State.respond_s (st : State) (v : Word) : (st.respond v).s = st.s := rfl
@[simp] theorem State.respond_v (st : State) (v : Word) : (st.respond v).v = st.v := rfl
@[simp] theorem State.respond_key (st : State) (v : Word) : (st.respond v).key = st.key := rfl
@[simp] theorem State.respond_ord (st : State) (v : Word) : (st.respond v).ord = st.ord := rfl
@[simp] theorem State.respond_sp (st : State) (v : Word) : (st.respond v).sp = st.sp := rfl
@[simp] theorem State.respond_cw (st : State) (v : Word) : (st.respond v).cw = st.cw := rfl
@[simp] theorem State.respond_cwv (st : State) (v : Word) : (st.respond v).cwv = st.cwv := rfl
@[simp] theorem State.respond_err (st : State) (v : Word) : (st.respond v).err = st.err := rfl
@[simp] theorem State.respond_ecmd (st : State) (v : Word) : (st.respond v).ecmd = st.ecmd := rfl
@[simp] theorem State.respond_input (st : State) (v : Word) : (st.respond v).input = st.input := rfl
@[simp] theorem State.respond_rsp (st : State) (v : Word) : (st.respond v).rsp = some { err := 0, rdata := v } := rfl
@[simp] theorem State.respond_N (st : State) (v : Word) : (st.respond v).N = st.N := rfl

/-! ## `setKey` -/

@[simp] theorem State.setKey_cfg (st : State) (i : Nat) (k : Word) : (st.setKey i k).cfg = st.cfg := rfl
@[simp] theorem State.setKey_p (st : State) (i : Nat) (k : Word) : (st.setKey i k).p = st.p := rfl
@[simp] theorem State.setKey_q (st : State) (i : Nat) (k : Word) : (st.setKey i k).q = st.q := rfl
@[simp] theorem State.setKey_s (st : State) (i : Nat) (k : Word) : (st.setKey i k).s = st.s := rfl
@[simp] theorem State.setKey_v (st : State) (i : Nat) (k : Word) : (st.setKey i k).v = st.v := rfl
@[simp] theorem State.setKey_key (st : State) (i : Nat) (k : Word) : (st.setKey i k).key = st.key.set i (some k) := rfl
@[simp] theorem State.setKey_ord (st : State) (i : Nat) (k : Word) : (st.setKey i k).ord = st.ord := rfl
@[simp] theorem State.setKey_sp (st : State) (i : Nat) (k : Word) : (st.setKey i k).sp = st.sp := rfl
@[simp] theorem State.setKey_cw (st : State) (i : Nat) (k : Word) : (st.setKey i k).cw = st.cw := rfl
@[simp] theorem State.setKey_cwv (st : State) (i : Nat) (k : Word) : (st.setKey i k).cwv = st.cwv := rfl
@[simp] theorem State.setKey_err (st : State) (i : Nat) (k : Word) : (st.setKey i k).err = st.err := rfl
@[simp] theorem State.setKey_ecmd (st : State) (i : Nat) (k : Word) : (st.setKey i k).ecmd = st.ecmd := rfl
@[simp] theorem State.setKey_input (st : State) (i : Nat) (k : Word) : (st.setKey i k).input = st.input := rfl
@[simp] theorem State.setKey_rsp (st : State) (i : Nat) (k : Word) : (st.setKey i k).rsp = st.rsp := rfl
@[simp] theorem State.setKey_N (st : State) (i : Nat) (k : Word) : (st.setKey i k).N = st.N := rfl

/-! ## `setOrd` -/

@[simp] theorem State.setOrd_cfg (st : State) (p : Nat) (o : Nibble) : (st.setOrd p o).cfg = st.cfg := rfl
@[simp] theorem State.setOrd_p (st : State) (p : Nat) (o : Nibble) : (st.setOrd p o).p = st.p := rfl
@[simp] theorem State.setOrd_q (st : State) (p : Nat) (o : Nibble) : (st.setOrd p o).q = st.q := rfl
@[simp] theorem State.setOrd_s (st : State) (p : Nat) (o : Nibble) : (st.setOrd p o).s = st.s := rfl
@[simp] theorem State.setOrd_v (st : State) (p : Nat) (o : Nibble) : (st.setOrd p o).v = st.v := rfl
@[simp] theorem State.setOrd_key (st : State) (p : Nat) (o : Nibble) : (st.setOrd p o).key = st.key := rfl
@[simp] theorem State.setOrd_ord (st : State) (p : Nat) (o : Nibble) : (st.setOrd p o).ord = st.ord.set p (some o) := rfl
@[simp] theorem State.setOrd_sp (st : State) (p : Nat) (o : Nibble) : (st.setOrd p o).sp = st.sp := rfl
@[simp] theorem State.setOrd_cw (st : State) (p : Nat) (o : Nibble) : (st.setOrd p o).cw = st.cw := rfl
@[simp] theorem State.setOrd_cwv (st : State) (p : Nat) (o : Nibble) : (st.setOrd p o).cwv = st.cwv := rfl
@[simp] theorem State.setOrd_err (st : State) (p : Nat) (o : Nibble) : (st.setOrd p o).err = st.err := rfl
@[simp] theorem State.setOrd_ecmd (st : State) (p : Nat) (o : Nibble) : (st.setOrd p o).ecmd = st.ecmd := rfl
@[simp] theorem State.setOrd_input (st : State) (p : Nat) (o : Nibble) : (st.setOrd p o).input = st.input := rfl
@[simp] theorem State.setOrd_rsp (st : State) (p : Nat) (o : Nibble) : (st.setOrd p o).rsp = st.rsp := rfl
@[simp] theorem State.setOrd_N (st : State) (p : Nat) (o : Nibble) : (st.setOrd p o).N = st.N := rfl

/-! ## `setSp` -/

@[simp] theorem State.setSp_cfg (st : State) (i : Nat) (words : List Word) : (st.setSp i words).cfg = st.cfg := rfl
@[simp] theorem State.setSp_p (st : State) (i : Nat) (words : List Word) : (st.setSp i words).p = st.p := rfl
@[simp] theorem State.setSp_q (st : State) (i : Nat) (words : List Word) : (st.setSp i words).q = st.q := rfl
@[simp] theorem State.setSp_s (st : State) (i : Nat) (words : List Word) : (st.setSp i words).s = st.s := rfl
@[simp] theorem State.setSp_v (st : State) (i : Nat) (words : List Word) : (st.setSp i words).v = st.v := rfl
@[simp] theorem State.setSp_key (st : State) (i : Nat) (words : List Word) : (st.setSp i words).key = st.key := rfl
@[simp] theorem State.setSp_ord (st : State) (i : Nat) (words : List Word) : (st.setSp i words).ord = st.ord := rfl
@[simp] theorem State.setSp_sp (st : State) (i : Nat) (words : List Word) : (st.setSp i words).sp = st.sp.set i words := rfl
@[simp] theorem State.setSp_cw (st : State) (i : Nat) (words : List Word) : (st.setSp i words).cw = st.cw := rfl
@[simp] theorem State.setSp_cwv (st : State) (i : Nat) (words : List Word) : (st.setSp i words).cwv = st.cwv := rfl
@[simp] theorem State.setSp_err (st : State) (i : Nat) (words : List Word) : (st.setSp i words).err = st.err := rfl
@[simp] theorem State.setSp_ecmd (st : State) (i : Nat) (words : List Word) : (st.setSp i words).ecmd = st.ecmd := rfl
@[simp] theorem State.setSp_input (st : State) (i : Nat) (words : List Word) : (st.setSp i words).input = st.input := rfl
@[simp] theorem State.setSp_rsp (st : State) (i : Nat) (words : List Word) : (st.setSp i words).rsp = st.rsp := rfl
@[simp] theorem State.setSp_N (st : State) (i : Nat) (words : List Word) : (st.setSp i words).N = st.N := rfl

/-! ## `clearAll` -/

@[simp] theorem State.clearAll_cfg (st : State) : (st.clearAll).cfg = st.cfg := rfl
@[simp] theorem State.clearAll_p (st : State) : (st.clearAll).p = none := rfl
@[simp] theorem State.clearAll_q (st : State) : (st.clearAll).q = none := rfl
@[simp] theorem State.clearAll_s (st : State) : (st.clearAll).s = none := rfl
@[simp] theorem State.clearAll_v (st : State) : (st.clearAll).v = none := rfl
@[simp] theorem State.clearAll_key (st : State) : (st.clearAll).key = List.replicate st.N none := rfl
@[simp] theorem State.clearAll_ord (st : State) : (st.clearAll).ord = List.replicate st.N none := rfl
@[simp] theorem State.clearAll_sp (st : State) : (st.clearAll).sp = List.replicate st.N [] := rfl
@[simp] theorem State.clearAll_cw (st : State) : (st.clearAll).cw = 0 := rfl
@[simp] theorem State.clearAll_cwv (st : State) : (st.clearAll).cwv = false := rfl
@[simp] theorem State.clearAll_err (st : State) : (st.clearAll).err = 0 := rfl
@[simp] theorem State.clearAll_ecmd (st : State) : (st.clearAll).ecmd = 0 := rfl
@[simp] theorem State.clearAll_input (st : State) : (st.clearAll).input = st.input := rfl
@[simp] theorem State.clearAll_rsp (st : State) : (st.clearAll).rsp = none := rfl
@[simp] theorem State.clearAll_N (st : State) : (st.clearAll).N = st.N := rfl

end Sys2Proof.Machine
end

