-- ==== Sys2Proof/Laws/Ops.lean ====
section
/-! SUPPORT. What each shared operation can do, said once. -/

namespace Sys2Proof.Machine

/-! ## Outcomes -/

@[simp] theorem done_eq (st : State) : done st = .next (st.respond 0) := rfl
@[simp] theorem answer_eq (st : State) (v : Word) : answer st v = .next (st.respond v) := rfl
@[simp] theorem fail_eq (st : State) (e : ErrCode) (i : Instr) : fail st e i = .next (st.raise e i.word) := rfl
@[simp] theorem idle_eq (st : State) : idle st = .next { st with rsp := none } := rfl
@[simp] theorem pinReset_eq (st : State) : pinReset st = .next st.clearAll := rfl
@[simp] theorem illegalWord_eq (st : State) (cmd : CmdWord) :
    illegalWord st cmd = .next (st.raise .opcode cmd) := rfl

theorem readFlagged_cases (st : State) (r : Flagged Word) (i : Instr) :
    (∃ w, r = some w ∧ readFlagged st r i = .next (st.respond w))
    ∨ (r = none ∧ readFlagged st r i = .next (st.raise .uninit i.word)) := by
  cases r with
  | none => exact .inr ⟨rfl, rfl⟩
  | some w => exact .inl ⟨w, rfl, rfl⟩

/-! ## Error codes -/

theorem ErrCode.code_ne_zero (e : ErrCode) : e.code ≠ 0 := by cases e <;> decide

theorem ErrCode.code_le_seven (e : ErrCode) : e.code.toNat ≤ 7 := by cases e <;> decide

theorem ErrCode.code_injective {e f : ErrCode} (h : e.code = f.code) : e = f := by
  cases e <;> cases f <;> first | rfl | exact absurd h (by decide)

@[simp] theorem ErrCode.code_eq_zero (e : ErrCode) : e.code = 0#4 ↔ False := by cases e <;> decide

/-! ## Operands -/

@[simp] theorem hasIndex_eq_true (st : State) (i : Nibble) : st.hasIndex i = true ↔ i.toNat < st.N := by
  simp [State.hasIndex]

@[simp] theorem hasIndex_eq_false (st : State) (i : Nibble) : st.hasIndex i = false ↔ st.N ≤ i.toNat := by
  simp [State.hasIndex]

/-- The range test of R254: `WDATA` is below 16. -/
@[simp] theorem fitsNibble_eq_true (d : Word) : fitsNibble d = true ↔ d.toNat < 16 := by
  have h : d.toNat >>> 4 < 2 ^ 60 := by
    rw [Nat.shiftRight_eq_div_pow]; have := d.isLt; omega
  rw [fitsNibble, beq_iff_eq, ← BitVec.toNat_inj, BitVec.extractLsb'_toNat, Nat.mod_eq_of_lt h,
    Nat.shiftRight_eq_div_pow]
  simp only [BitVec.toNat_ofNat]
  omega

theorem lowNibble_eq (d : Word) : lowNibble d = BitVec.ofNat 4 d.toNat := by
  apply BitVec.eq_of_toNat_eq
  simp [lowNibble]

/-- A usable rotation count is 1..63 (R155). -/
@[simp] theorem isCount_eq_true (w : Word) : isCount w = true ↔ 1 ≤ w.toNat ∧ w.toNat ≤ 63 := by
  simp [isCount]

/-! ## Register files -/

theorem readEntry_of_le {α : Type} {file : List (Flagged α)} {i : Nat} (h : file.length ≤ i) :
    readEntry file i = none := by
  simp [readEntry, List.getElem?_eq_none_iff.mpr h]

theorem readEntry_set_same {α : Type} {file : List (Flagged α)} {i : Nat} (x : Flagged α)
    (h : i < file.length) : readEntry (file.set i x) i = x := by
  simp [readEntry, h]

theorem readEntry_set_other {α : Type} (file : List (Flagged α)) {i j : Nat} (x : Flagged α)
    (h : i ≠ j) : readEntry (file.set i x) j = readEntry file j := by
  simp [readEntry, h]

theorem map_readEntry {α : Type} (file : List (Flagged α)) :
    (List.range file.length).map (readEntry file) = file := by
  apply List.ext_getElem
  · simp
  · intro i h1 h2
    simp [readEntry, h2]

theorem allValues_eq_some {α : Type} (xs : List (Flagged α)) (ys : List α) :
    allValues xs = some ys ↔ xs = ys.map some := by
  induction xs generalizing ys with
  | nil => cases ys <;> simp [allValues]
  | cons x rest ih =>
    cases x with
    | none => cases ys <;> simp [allValues]
    | some a =>
      cases ys with
      | nil => simp [allValues]
      | cons b bs => simp [allValues, ih, and_comm]

theorem allValues_eq_none {α : Type} (xs : List (Flagged α)) :
    allValues xs = none ↔ none ∈ xs := by
  induction xs with
  | nil => simp [allValues]
  | cons x rest ih => cases x <;> simp [allValues, ih]

/-- All entries of a file have their flag set exactly when `readFile` finds their values, and then entry `i`
holds value `i`. -/
theorem readFile_eq_some {α : Type} (n : Nat) (file : List (Flagged α)) (ys : List α) :
    readFile n file = some ys
      ↔ ys.length = n ∧ ∀ i (h : i < ys.length), readEntry file i = some ys[i] := by
  unfold readFile
  rw [allValues_eq_some]
  constructor
  · intro h
    have hl : ys.length = n := by simpa using (congrArg List.length h).symm
    refine ⟨hl, fun i hi => ?_⟩
    have h1 := congrArg (fun l => l[i]?) h
    simpa [List.getElem?_range (hl ▸ hi), hi] using h1
  · rintro ⟨hl, h⟩
    apply List.ext_getElem
    · simp [hl]
    · intro i h1 h2
      simp [h i (by simpa using h2)]

theorem readFile_eq_none {α : Type} (n : Nat) (file : List (Flagged α)) :
    readFile n file = none ↔ ∃ i, i < n ∧ readEntry file i = none := by
  unfold readFile
  rw [allValues_eq_none]
  simp

/-- A file of the right size whose values are all there is the list of its values. -/
theorem readFile_of_length {α : Type} {n : Nat} {file : List (Flagged α)} (h : file.length = n) :
    readFile n file = allValues file := by
  subst h; simp [readFile, map_readEntry]

/-! ## Side parameters -/

theorem writeSpWord_cases (sp : List Word) (j : BitVec 1) (d : Word) :
    (j = 0 ∧ writeSpWord sp j d = some [d])
    ∨ (j ≠ 0 ∧ sp = [] ∧ writeSpWord sp j d = none)
    ∨ (j ≠ 0 ∧ ∃ w ws, sp = w :: ws ∧ writeSpWord sp j d = some [w, d]) := by
  unfold writeSpWord
  by_cases hj : j = 0
  · exact .inl ⟨hj, by simp [hj]⟩
  · cases sp with
    | nil => exact .inr (.inl ⟨hj, rfl, if_neg hj⟩)
    | cons w ws => exact .inr (.inr ⟨hj, w, ws, rfl, if_neg hj⟩)

theorem spcheck_cases (kind : Kind) (sp : List Word) :
    (sp.length ≠ kind.arity ∧ spcheck kind sp = some .spArity)
    ∨ (sp.length = kind.arity ∧ spcheck kind sp = some .spRange)
    ∨ (sp.length = kind.arity ∧ spcheck kind sp = none) := by
  unfold spcheck
  by_cases h : sp.length = kind.arity
  · simp only [h, ne_eq, not_true_eq_false, if_false, false_and, true_and, false_or]
    cases kind with
    | t1 => cases isCount (spWord sp 0) <;> simp
    | t2 => simp
    | t3 => simp
    | t4 => cases isCount (spWord sp 0) <;> cases isCount (spWord sp 1) <;> simp
  · exact .inl ⟨h, by simp [h]⟩

theorem firstSpError_eq_none (st : State) :
    st.firstSpError = none ↔ ∀ i, i < st.N → spcheck (kindOf i) (st.spAt i) = none := by
  simp [State.firstSpError]

/-! ## The orchestrator's operands -/

/-- Steps 1 and 2 of the entry checks: what they answer, and when (R192). -/
theorem blockOperands_cases (st : State) :
    (∃ v keys ord, st.v = some v ∧ readFile st.N st.key = some keys ∧ readFile st.N st.ord = some ord
      ∧ validPerm st.N (ord.map BitVec.toNat) = true
      ∧ st.blockOperands = .ok { v := v, keys := keys, order := ord.map BitVec.toNat })
    ∨ (∃ v keys ord, st.v = some v ∧ readFile st.N st.key = some keys ∧ readFile st.N st.ord = some ord
      ∧ validPerm st.N (ord.map BitVec.toNat) = false ∧ st.blockOperands = .error .order)
    ∨ ((st.v = none ∨ readFile st.N st.key = none ∨ readFile st.N st.ord = none)
      ∧ st.blockOperands = .error .uninit) := by
  unfold State.blockOperands
  cases hv : st.v with
  | none => simp
  | some v =>
    cases hk : readFile st.N st.key with
    | none => simp
    | some keys =>
      cases ho : readFile st.N st.ord with
      | none => simp
      | some ord => cases hp : validPerm st.N (ord.map BitVec.toNat) <;> simp [hp]

/-! ## Runs -/

@[simp] theorem execList_nil (st : State) : execList [] st = .next st := rfl

theorem execList_cons_of_next {i : Instr} {st t : State} (h : exec i st = .next t) (rest : List Instr) :
    execList (i :: rest) st = execList rest t := by simp [execList, h]

theorem executions_cons_of_next {st t : State} {c : Command} (h : execute st c = .next t)
    (rest : List Command) : executions st (c :: rest) = t :: executions t rest := by
  simp [executions, h]

/-! ## The channel -/

theorem execute_of_decode {c : Command} {i : Instr} (h : decode c = .ok i) (st : State) :
    execute st c = exec i st := by simp [execute, h]

theorem execute_cases (st : State) (c : Command) :
    (∃ i, decode c = .ok i ∧ execute st c = exec i st)
    ∨ (∃ why, decode c = .error why ∧ execute st c = .next (st.raise .opcode c.cmd)) := by
  cases h : decode c with
  | ok i => exact .inl ⟨i, rfl, by simp [execute, h]⟩
  | error why => exact .inr ⟨why, rfl, by simp [execute, h]⟩

theorem step_cases (st : State) :
    (st.input = [] ∧ step st = .next { st with rsp := none })
    ∨ (∃ c rest, st.input = .command c :: rest ∧ step st = execute { st with input := rest } c)
    ∨ (∃ f rest, st.input = .rst f :: rest
        ∧ step st = .next (State.clearAll { st with input := rest })) := by
  unfold step serve
  cases h : st.input with
  | nil => exact .inl ⟨rfl, by simp [h]⟩
  | cons x rest =>
    cases x with
    | command c => exact .inr (.inl ⟨c, rest, rfl, rfl⟩)
    | rst f => exact .inr (.inr ⟨f, rest, rfl, rfl⟩)

end Sys2Proof.Machine
end

