-- ==== Sys2Proof/Laws/PerInstr.lean ====
section
/-! SUPPORT. Statements about every command as syntax, one lemma per constructor of `Instr`. -/

namespace Sys2Proof.Laws.FormatFields

/-- The field a command's format does not use is zero in its word, and the command is the one its row makes
of its fields (R94). -/
def Statement (i : Instr) : Prop :=
  (i.mnemonic.format = .z → i.idxField = 0) ∧ (i.mnemonic.format ≠ .s → i.selField = 0)
  ∧ (i.mnemonic.usesData = false → i.dataField = 0)
  ∧ i.mnemonic.toInstr i.idxField i.selField i.dataField = i

theorem nop : Statement .nop := by
  simp [Statement, Instr.mnemonic, Mnemonic.format, Mnemonic.usesData, Instr.idxField,
    Instr.selField, Instr.dataField, Mnemonic.toInstr]
theorem rdst : Statement .rdst := by
  simp [Statement, Instr.mnemonic, Mnemonic.format, Mnemonic.usesData, Instr.idxField,
    Instr.selField, Instr.dataField, Mnemonic.toInstr]
theorem clrerr : Statement .clrerr := by
  simp [Statement, Instr.mnemonic, Mnemonic.format, Mnemonic.usesData, Instr.idxField,
    Instr.selField, Instr.dataField, Mnemonic.toInstr]
theorem srst : Statement .srst := by
  simp [Statement, Instr.mnemonic, Mnemonic.format, Mnemonic.usesData, Instr.idxField,
    Instr.selField, Instr.dataField, Mnemonic.toInstr]
theorem rdslot (i : Nibble) : Statement (.rdslot i) := by
  simp [Statement, Instr.mnemonic, Mnemonic.format, Mnemonic.usesData, Instr.idxField,
    Instr.selField, Instr.dataField, Mnemonic.toInstr]
theorem wrp (d : Word) : Statement (.wrp d) := by
  simp [Statement, Instr.mnemonic, Mnemonic.format, Mnemonic.usesData, Instr.idxField,
    Instr.selField, Instr.dataField, Mnemonic.toInstr]
theorem wrq (d : Word) : Statement (.wrq d) := by
  simp [Statement, Instr.mnemonic, Mnemonic.format, Mnemonic.usesData, Instr.idxField,
    Instr.selField, Instr.dataField, Mnemonic.toInstr]
theorem wrs (d : Word) : Statement (.wrs d) := by
  simp [Statement, Instr.mnemonic, Mnemonic.format, Mnemonic.usesData, Instr.idxField,
    Instr.selField, Instr.dataField, Mnemonic.toInstr]
theorem wrv (d : Word) : Statement (.wrv d) := by
  simp [Statement, Instr.mnemonic, Mnemonic.format, Mnemonic.usesData, Instr.idxField,
    Instr.selField, Instr.dataField, Mnemonic.toInstr]
theorem wrkey (i : Nibble) (d : Word) : Statement (.wrkey i d) := by
  simp [Statement, Instr.mnemonic, Mnemonic.format, Mnemonic.usesData, Instr.idxField,
    Instr.selField, Instr.dataField, Mnemonic.toInstr]
theorem wrord (p : Nibble) (d : Word) : Statement (.wrord p d) := by
  simp [Statement, Instr.mnemonic, Mnemonic.format, Mnemonic.usesData, Instr.idxField,
    Instr.selField, Instr.dataField, Mnemonic.toInstr]
theorem wrsp (i : Nibble) (j : BitVec 1) (d : Word) : Statement (.wrsp i j d) := by
  simp [Statement, Instr.mnemonic, Mnemonic.format, Mnemonic.usesData, Instr.idxField,
    Instr.selField, Instr.dataField, Mnemonic.toInstr]
theorem rdp : Statement .rdp := by
  simp [Statement, Instr.mnemonic, Mnemonic.format, Mnemonic.usesData, Instr.idxField,
    Instr.selField, Instr.dataField, Mnemonic.toInstr]
theorem rdq : Statement .rdq := by
  simp [Statement, Instr.mnemonic, Mnemonic.format, Mnemonic.usesData, Instr.idxField,
    Instr.selField, Instr.dataField, Mnemonic.toInstr]
theorem rds : Statement .rds := by
  simp [Statement, Instr.mnemonic, Mnemonic.format, Mnemonic.usesData, Instr.idxField,
    Instr.selField, Instr.dataField, Mnemonic.toInstr]
theorem rdv : Statement .rdv := by
  simp [Statement, Instr.mnemonic, Mnemonic.format, Mnemonic.usesData, Instr.idxField,
    Instr.selField, Instr.dataField, Mnemonic.toInstr]
theorem rdkey (i : Nibble) : Statement (.rdkey i) := by
  simp [Statement, Instr.mnemonic, Mnemonic.format, Mnemonic.usesData, Instr.idxField,
    Instr.selField, Instr.dataField, Mnemonic.toInstr]
theorem rdord (p : Nibble) : Statement (.rdord p) := by
  simp [Statement, Instr.mnemonic, Mnemonic.format, Mnemonic.usesData, Instr.idxField,
    Instr.selField, Instr.dataField, Mnemonic.toInstr]
theorem rdsp (i : Nibble) (j : BitVec 1) : Statement (.rdsp i j) := by
  simp [Statement, Instr.mnemonic, Mnemonic.format, Mnemonic.usesData, Instr.idxField,
    Instr.selField, Instr.dataField, Mnemonic.toInstr]
theorem kstep (i : Nibble) : Statement (.kstep i) := by
  simp [Statement, Instr.mnemonic, Mnemonic.format, Mnemonic.usesData, Instr.idxField,
    Instr.selField, Instr.dataField, Mnemonic.toInstr]
theorem keygen : Statement .keygen := by
  simp [Statement, Instr.mnemonic, Mnemonic.format, Mnemonic.usesData, Instr.idxField,
    Instr.selField, Instr.dataField, Mnemonic.toInstr]
theorem tenc (i : Nibble) : Statement (.tenc i) := by
  simp [Statement, Instr.mnemonic, Mnemonic.format, Mnemonic.usesData, Instr.idxField,
    Instr.selField, Instr.dataField, Mnemonic.toInstr]
theorem tdec (i : Nibble) : Statement (.tdec i) := by
  simp [Statement, Instr.mnemonic, Mnemonic.format, Mnemonic.usesData, Instr.idxField,
    Instr.selField, Instr.dataField, Mnemonic.toInstr]
theorem selord (c : Nibble) : Statement (.selord c) := by
  simp [Statement, Instr.mnemonic, Mnemonic.format, Mnemonic.usesData, Instr.idxField,
    Instr.selField, Instr.dataField, Mnemonic.toInstr]
theorem enc : Statement .enc := by
  simp [Statement, Instr.mnemonic, Mnemonic.format, Mnemonic.usesData, Instr.idxField,
    Instr.selField, Instr.dataField, Mnemonic.toInstr]
theorem dec : Statement .dec := by
  simp [Statement, Instr.mnemonic, Mnemonic.format, Mnemonic.usesData, Instr.idxField,
    Instr.selField, Instr.dataField, Mnemonic.toInstr]

end Sys2Proof.Laws.FormatFields
end

