-- ==== Sys2Proof/Machine/Packing.lean ====
section
/-! DEFINITION. The interface convention of R76, by which a host packs a message into the blocks it writes
with `WRV`. It is no part of the CORE and no command uses it (log 12). -/

namespace Sys2Proof.Machine

/-- `byte(m)` of R76: message byte `m`, or the padding zero behind the end of the message. -/
def messageByte (message : List (BitVec 8)) (m : Nat) : Nat := (message.getD m 0).toNat

/-- `block_t` of R76: most significant byte first. -/
def packedBlock (message : List (BitVec 8)) (t : Nat) : Word :=
  BitVec.ofNat 64
    ((List.range 8).map (fun j => messageByte message (8 * t + j) * 2 ^ (56 - 8 * j))).sum

/-- The blocks of a message of `L` bytes, `t = 0, 1, ..., ceil(L/8) - 1` (R76). -/
def packMessage (message : List (BitVec 8)) : List Word :=
  (List.range ((message.length + 7) / 8)).map (packedBlock message)

end Sys2Proof.Machine
end

