-- ==== Sys2Proof/Tests/Slice0.lean ====
section
/-! SUPPORT. Tests. Expected results are taken from the spec: the decoding words from 30_encoding.md R97, R99,
R110, the step results from 95_test_vectors.md and the worked examples of the command rules. The witnesses
at the end show states and operands that meet the hypotheses of the statements. -/

namespace Sys2Proof.Tests

open Sys2Proof Sys2Proof.Machine

/-! ## Well-formed source lines (R110): one ill-formed line for each check -/

theorem test_asm_idx_missing : AsmLine.wellFormed { mnemonic := .rdkey } = false := by decide
theorem test_asm_idx_sixteen : AsmLine.wellFormed { mnemonic := .rdkey, idx := some 16 } = false := by decide
theorem test_asm_sel_unused :
    AsmLine.wellFormed { mnemonic := .rdkey, idx := some 1, sel := some 0 } = false := by decide
theorem test_asm_sel_two :
    AsmLine.wellFormed { mnemonic := .rdsp, idx := some 1, sel := some 2 } = false := by decide
theorem test_asm_data_unused : AsmLine.wellFormed { mnemonic := .enc, data := some 0 } = false := by decide
theorem test_asm_data_wide : AsmLine.wellFormed { mnemonic := .wrp, data := some (2 ^ 64) } = false := by decide

/-- The examples of R110. -/
theorem test_asm_wrp :
    (AsmLine.assemble { mnemonic := .wrp, data := some 0xFFFFFFFFFFFFFFC5 }).map encode
      = some { cmd := 0x1000, wdata := 0xFFFFFFFFFFFFFFC5 } := by decide
theorem test_asm_wrsp :
    (AsmLine.assemble { mnemonic := .wrsp, idx := some 3, sel := some 1, data := some 17 }).map encode
      = some { cmd := 0x1631, wdata := 17 } := by decide
theorem test_asm_selord :
    (AsmLine.assemble { mnemonic := .selord, idx := some 9 }).map encode
      = some { cmd := 0x4090, wdata := 0 } := by decide

/-- The macros of R111 on N = 2. -/
theorem test_macro_ldorder : Macro.expand 2 (.ldorder [1, 0]) = [.wrord 0 1, .wrord 1 0] := by decide
theorem test_macro_encblk : Macro.expand 2 (.encblk 9 7) = [.wrv 7, .selord 9, .enc] := by decide

/-! ## Decoding: the word of R97 for every command -/

theorem test_decode_nop : decode { cmd := 0x0000, wdata := 5 } = .ok .nop := by decide
theorem test_decode_rdst : decode { cmd := 0x0100, wdata := 5 } = .ok .rdst := by decide
theorem test_decode_clrerr : decode { cmd := 0x0200, wdata := 5 } = .ok .clrerr := by decide
theorem test_decode_srst : decode { cmd := 0x0300, wdata := 5 } = .ok .srst := by decide
theorem test_decode_rdslot : decode { cmd := 0x0430, wdata := 5 } = .ok (.rdslot 3) := by decide
theorem test_decode_wrp : decode { cmd := 0x1000, wdata := 5 } = .ok (.wrp 5) := by decide
theorem test_decode_wrq : decode { cmd := 0x1100, wdata := 5 } = .ok (.wrq 5) := by decide
theorem test_decode_wrs : decode { cmd := 0x1200, wdata := 5 } = .ok (.wrs 5) := by decide
theorem test_decode_wrv : decode { cmd := 0x1300, wdata := 5 } = .ok (.wrv 5) := by decide
theorem test_decode_wrkey : decode { cmd := 0x1430, wdata := 5 } = .ok (.wrkey 3 5) := by decide
theorem test_decode_wrord : decode { cmd := 0x1510, wdata := 5 } = .ok (.wrord 1 5) := by decide
theorem test_decode_wrsp : decode { cmd := 0x1631, wdata := 5 } = .ok (.wrsp 3 1 5) := by decide
theorem test_decode_rdp : decode { cmd := 0x1800, wdata := 5 } = .ok .rdp := by decide
theorem test_decode_rdq : decode { cmd := 0x1900, wdata := 5 } = .ok .rdq := by decide
theorem test_decode_rds : decode { cmd := 0x1A00, wdata := 5 } = .ok .rds := by decide
theorem test_decode_rdv : decode { cmd := 0x1B00, wdata := 5 } = .ok .rdv := by decide
theorem test_decode_rdkey : decode { cmd := 0x1C30, wdata := 5 } = .ok (.rdkey 3) := by decide
theorem test_decode_rdord : decode { cmd := 0x1DF0, wdata := 5 } = .ok (.rdord 15) := by decide
theorem test_decode_rdsp : decode { cmd := 0x1E31, wdata := 5 } = .ok (.rdsp 3 1) := by decide
theorem test_decode_kstep : decode { cmd := 0x2050, wdata := 5 } = .ok (.kstep 5) := by decide
theorem test_decode_keygen : decode { cmd := 0x2100, wdata := 5 } = .ok .keygen := by decide
theorem test_decode_tenc : decode { cmd := 0x3030, wdata := 5 } = .ok (.tenc 3) := by decide
theorem test_decode_tdec : decode { cmd := 0x3130, wdata := 5 } = .ok (.tdec 3) := by decide
theorem test_decode_selord : decode { cmd := 0x4090, wdata := 5 } = .ok (.selord 9) := by decide
theorem test_decode_enc : decode { cmd := 0x5000, wdata := 5 } = .ok .enc := by decide
theorem test_decode_dec : decode { cmd := 0x5100, wdata := 5 } = .ok .dec := by decide
theorem test_illegal_0001 : decode { cmd := 0x0001, wdata := 0 } = .error .reservedField := by decide
theorem test_illegal_0010 : decode { cmd := 0x0010, wdata := 0 } = .error .reservedField := by decide
theorem test_illegal_0102 : decode { cmd := 0x0102, wdata := 0 } = .error .reservedField := by decide
theorem test_illegal_1612 : decode { cmd := 0x1612, wdata := 0 } = .error .reservedField := by decide
theorem test_illegal_40F1 : decode { cmd := 0x40F1, wdata := 0 } = .error .reservedField := by decide
theorem test_illegal_5008 : decode { cmd := 0x5008, wdata := 0 } = .error .reservedField := by decide
theorem test_illegal_0500 : decode { cmd := 0x0500, wdata := 0 } = .error .reservedOpcode := by decide
theorem test_illegal_1700 : decode { cmd := 0x1700, wdata := 0 } = .error .reservedOpcode := by decide
theorem test_illegal_2200 : decode { cmd := 0x2200, wdata := 0 } = .error .reservedOpcode := by decide
theorem test_illegal_FFFF : decode { cmd := 0xFFFF, wdata := 0 } = .error .reservedOpcode := by decide
theorem test_table_word_wdata : decodeTableWord 80 0x123416310000 = some .nop := by decide
theorem test_table_word_wrsp : decodeTableWord 80 0x111631 = some (.wrsp 3 1 17) := by decide
theorem test_table_word_short : decodeTableWord 16 0x111631 = some (.wrsp 3 1 0) := by decide

/-! ## One step from a small state -/

/-- The state after the host issues one command. -/
def after (st : State) (cmd : CmdWord) (d : Word) : Option State :=
  match step (st.present { cmd := cmd, wdata := d }) with
  | .next t => some t
  | .fault _ => none
  | .refused _ => none

/-- The response to one command. -/
def answerTo (st : State) (cmd : CmdWord) (d : Word) : Option Response :=
  (after st cmd d).bind State.rsp

/-- A CORE with N = 4 that holds the parameters of X1 (95_test_vectors.md section 1). -/
def seeded : State :=
  { State.reset with
    p := some 0xFFFFFFFFFFFFFFC5, q := some 0xFFFFFFFFFFFFFFAD, s := some 0xAB54A98CEB1F0AD2 }

/-- A CORE with N = 4 that holds keys K0..K3, the order 2, 1, 3, 0 and a block (section 6.3). -/
def keyed : State :=
  { State.reset with
    v := some 0x0123456789ABCDEF
    key := [0x78A677DBC77C1685, 0xDE170866EA77D567, 0x46A4D876CC279DB3, 0xEB7B12BFE293207D].map some
    ord := [2, 1, 3, 0].map some }

/-- The same with the side parameters and the final value that `ENC` leaves (program P2). -/
def encoded : State :=
  { keyed with
    v := some 0x7C44F6FE7647749A
    sp := [[0x23], [0xEA77D567DE170866], [0x46A4D876], [0x12, 0x3]] }

/-- A CORE whose slot 3 holds the key of R153's worked example. -/
def slotThree : State :=
  { State.reset with
    v := some 0x0123456789ABCDEF, key := [none, none, none, some 0xFEDCBA9876543211] }

theorem test_nop : answerTo State.reset 0x0000 9 = some { err := 0, rdata := 0 } := by decide
theorem test_rdst_reset : answerTo State.reset 0x0100 0 = some { err := 0, rdata := 0x4000000 } := by decide
theorem test_rdst_loaded :
    answerTo { seeded with v := some 0, key := keyed.key, ord := keyed.ord, cw := 9, cwv := true } 0x0100 0
      = some { err := 0, rdata := 0x40907F0 } := by decide
theorem test_clrerr :
    (after { State.reset with err := 1, ecmd := 0x2110 } 0x0200 0).map (fun t => (t.err, t.ecmd))
      = some (0, 0) := by decide
theorem test_srst :
    after encoded 0x0300 0 = some { State.reset with rsp := some { err := 0, rdata := 0 } } := by decide
theorem test_rdslot_reset : answerTo State.reset 0x0430 0 = some { err := 0, rdata := 0x0B } := by decide
theorem test_rdslot_encoded : answerTo encoded 0x0430 0 = some { err := 0, rdata := 0x6B } := by decide
theorem test_illegal_word :
    (after State.reset 0x2110 0).map State.status = some 0x0000211004000001 := by decide
theorem test_second_error_not_recorded :
    (after { State.reset with err := 4, ecmd := 0x5000 } 0x2110 0).map (fun t => (t.err, t.ecmd, t.rsp))
      = some (4, 0x5000, some { err := 1, rdata := 0 }) := by decide
theorem test_wrp : (after State.reset 0x1000 0xFFFFFFFFFFFFFFC5).map State.p
    = some (some 0xFFFFFFFFFFFFFFC5) := by decide
theorem test_wrq : (after State.reset 0x1100 0xFFFFFFFFFFFFFFAD).map State.q
    = some (some 0xFFFFFFFFFFFFFFAD) := by decide
theorem test_wrs : (after State.reset 0x1200 0xAB54A98CEB1F0AD2).map State.s
    = some (some 0xAB54A98CEB1F0AD2) := by decide
theorem test_wrv : (after State.reset 0x1300 0).map State.v = some (some 0) := by decide
theorem test_wrkey :
    (after State.reset 0x1420 0x1111111111111110).map State.key
      = some [none, none, some 0x1111111111111110, none] := by decide
theorem test_wrord :
    (after { keyed with cw := 9, cwv := true } 0x1510 0xF).map (fun t => (t.ord, t.cw, t.cwv))
      = some ([some 2, some 15, some 3, some 0], 9, false) := by decide
theorem test_wrord_priority : answerTo State.reset 0x1550 0x63 = some { err := 2, rdata := 0 } := by decide
theorem test_wrsp_empty : (after State.reset 0x1621 0).map State.status = some 0x0000162104000006 := by decide
theorem test_wrsp_first_again : (after encoded 0x1630 7).map (fun t => t.spAt 3) = some [7] := by decide
theorem test_rdp : answerTo seeded 0x1800 0 = some { err := 0, rdata := 0xFFFFFFFFFFFFFFC5 } := by decide
theorem test_rdp_uninit : answerTo State.reset 0x1800 0 = some { err := 4, rdata := 0 } := by decide
theorem test_rdq : answerTo seeded 0x1900 0 = some { err := 0, rdata := 0xFFFFFFFFFFFFFFAD } := by decide
theorem test_rds : answerTo seeded 0x1A00 0 = some { err := 0, rdata := 0xAB54A98CEB1F0AD2 } := by decide
theorem test_rdv : answerTo encoded 0x1B00 0 = some { err := 0, rdata := 0x7C44F6FE7647749A } := by decide
theorem test_rdkey : answerTo keyed 0x1C30 0 = some { err := 0, rdata := 0xEB7B12BFE293207D } := by decide
theorem test_rdkey_no_wrap : answerTo keyed 0x1C40 0 = some { err := 2, rdata := 0 } := by decide
theorem test_rdord : answerTo keyed 0x1D20 0 = some { err := 0, rdata := 3 } := by decide
theorem test_rdsp : answerTo encoded 0x1E31 0 = some { err := 0, rdata := 3 } := by decide
theorem test_rdsp_no_word : answerTo encoded 0x1E01 0 = some { err := 4, rdata := 0 } := by decide
theorem test_kstep :
    (after seeded 0x2020 0).map (fun t => (t.keyAt 2, t.s))
      = some (some 0x78A677DBC77C1685, some 0xC272C7DD3E498A44) := by decide
theorem test_keygen :
    (after seeded 0x2100 0).map (fun t => (t.key, t.s))
      = some (keyed.key, some 0x6ADFA04F75ACA148) := by decide
theorem test_tenc :
    (after slotThree 0x3030 0).map (fun t => (t.v, t.spAt 3))
      = some (some 0x4567F6C590A0C4D5, [18, 1]) := by decide
theorem test_tdec :
    (after { slotThree with v := some 0x4567F6C590A0C4D5, sp := [[], [], [], [18, 1]] } 0x3130 0).map State.v
      = some (some 0x0123456789ABCDEF) := by decide
theorem test_tdec_range :
    answerTo { State.reset with v := some 1, key := [some 0, none, none, none], sp := [[64], [], [], []] }
      0x3100 0 = some { err := 7, rdata := 0 } := by decide
theorem test_selord :
    (after State.reset 0x4090 0).map (fun t => (t.ord, t.cw, t.cwv))
      = some ([some 2, some 1, some 3, some 0], 9, true) := by decide
theorem test_selord_zero :
    (after (State.resetOf { lastSlot := 3, patternLsb := .zero }) 0x4090 0).map State.ord
      = some [some 2, some 3, some 1, some 0] := by decide
theorem test_enc :
    (after keyed 0x5000 0).map (fun t => (t.v, t.sp)) = some (encoded.v, encoded.sp) := by decide
theorem test_enc_duplicate :
    (after { keyed with ord := [0, 1, 1, 3].map some } 0x5000 0).map State.status
      = some 0x0000500004000385 := by decide
theorem test_dec : (after encoded 0x5100 0).map State.v = some keyed.v := by decide
theorem test_dec_first_slot_decides :
    answerTo { encoded with sp := [[64], [7], [7], [1]] } 0x5100 0 = some { err := 7, rdata := 0 } := by decide
theorem test_pin_reset :
    step { encoded with input := [.rst none] } = .next State.reset := rfl
theorem test_fetch_word :
    (match step (State.reset.withFetchWord 16 0x4090) with
      | .next t => t.cw
      | _ => 0) = 9 := by decide

/-- The tables of R177 for N = 4. -/
theorem test_order_tables :
    (List.range 16).map (fun c => selectOrder .two (BitVec.ofNat 4 c) 4) =
      List.replicate 4 [0, 1, 2, 3] ++ List.replicate 4 [1, 3, 2, 0]
        ++ List.replicate 4 [2, 1, 3, 0] ++ List.replicate 4 [3, 2, 0, 1]
    ∧ (List.range 16).map (fun c => selectOrder .zero (BitVec.ofNat 4 c) 4) =
      [[0, 1, 2, 3], [0, 3, 2, 1], [0, 2, 3, 1], [0, 3, 1, 2],
       [1, 0, 2, 3], [1, 3, 2, 0], [1, 2, 3, 0], [1, 3, 0, 2],
       [2, 0, 1, 3], [2, 3, 1, 0], [2, 1, 3, 0], [2, 3, 0, 1],
       [3, 0, 1, 2], [3, 2, 1, 0], [3, 1, 2, 0], [3, 2, 0, 1]] := by decide

/-- Rows of 95_test_vectors.md section 5: N = 6 and N = 16. -/
theorem test_order_rows :
    selectOrder .two 11 6 = [4, 1, 2, 3, 5, 0] ∧ selectOrder .zero 9 6 = [3, 5, 4, 2, 1, 0]
    ∧ selectOrder .two 12 16 = [12, 15, 0, 1, 2, 3, 4, 5, 6, 7, 8, 9, 10, 11, 13, 14] := by decide

/-- Rows of sections 3.3 and 4 of 95_test_vectors.md: zero replacement, extreme counts, a foreign count. -/
theorem test_function_rows :
    mutate 0xFD6FEFFFFF5A0000 0xFFFFFFFFFFFFFFAD = 0x52
    ∧ mutate 0xFFFFEFFFFFFE0000 0xFFFFFFFFFFFFFFFF = 0
    ∧ scramble 0x0123456789ABCDEF 0xFEDCBA9876543210 = 0xCF80FCBD75136608
    ∧ tenc .t1 0x0123456789ABCDEF 0x3E = (0x8091A2B3C4D5E6C9, [0x3F])
    ∧ tenc .t3 0xFFFFFFFFFFFFFFFF 0xFFFFFFFF00000000 = (0xFFFFFFFE, [0xFFFFFFFF])
    ∧ tenc .t4 0x0123456789ABCDEF 0x1E1E = (0xF10123457997ABD3, [0x17, 0x1F])
    ∧ tdec .t4 0x0123456789ABCDEF 0x78A677DBC77C1685 [31, 63] = 0x083F34CCB18465D2 := by decide

/-- R76: a message of 20 bytes makes three blocks, and the padding zeros stand at the low-order end. -/
theorem test_pack_message :
    packMessage ((List.range 20).map (fun k => BitVec.ofNat 8 (k + 1)))
      = [0x0102030405060708, 0x090A0B0C0D0E0F10, 0x1112131400000000] := by decide

/-! ## Witnesses: the hypotheses of the statements can be met -/

theorem witness_DecodeThenEncode :
    decode { cmd := 0x16F1, wdata := 3 } = .ok (.wrsp 15 1 3)
    ∧ decode { cmd := 0x3000, wdata := 3 } = .ok (.tenc 0) ∧ (Instr.tenc 0).mnemonic.usesData = false := by decide

theorem witness_LegalWordsAreTheTable :
    decode { cmd := 0x51F0, wdata := 0 } = .error .reservedField
    ∧ decode { cmd := 0x5100, wdata := 0 } = .ok .dec := by decide

theorem witness_ReservedOpcodesRefused_edges :
    Mnemonic.ofOpcode 0x05 = none ∧ Mnemonic.ofOpcode 0x17 = none ∧ Mnemonic.ofOpcode 0x52 = none
    ∧ Mnemonic.ofOpcode 0xFF = none ∧ Mnemonic.ofOpcode 0x22 = none ∧ Mnemonic.ofOpcode 0x4F = none := by decide

theorem witness_UnusedFieldsRefused :
    (0x1612 : CmdWord).extractLsb' 8 8 = Mnemonic.opcode .wrsp ∧ (0x1612 : CmdWord).extractLsb' 1 3 ≠ 0#3
    ∧ (0x3001 : CmdWord).extractLsb' 8 8 = Mnemonic.opcode .tenc ∧ (0x3001 : CmdWord).extractLsb' 0 1 ≠ 0#1
    ∧ (0x2110 : CmdWord).extractLsb' 8 8 = Mnemonic.opcode .keygen ∧ (0x2110 : CmdWord).extractLsb' 4 4 ≠ 0#4 := by decide

theorem witness_StepExecutesNextCommand :
    (State.reset.present { cmd := 0x1000, wdata := 5 }).input = [.command { cmd := 0x1000, wdata := 5 }]
    ∧ decode { cmd := 0x1000, wdata := 5 } = .ok (.wrp 5) := by decide

theorem witness_StepExecutesNextCommand_illegal :
    (State.reset.present { cmd := 0x2110, wdata := 5 }).input = [.command { cmd := 0x2110, wdata := 5 }]
    ∧ ∀ i, decode { cmd := 0x2110, wdata := 5 } ≠ .ok i := by
  have h : decode { cmd := 0x2110, wdata := 5 } = .error .reservedField := by decide
  exact ⟨rfl, fun i => by rw [h]; exact nofun⟩

theorem witness_PinResetAndIdle :
    { encoded with input := [.rst (some { cmd := 0x5000, wdata := 0 })] }.input
      = [Input.rst (some { cmd := 0x5000, wdata := 0 })] ∧ State.reset.input = [] := by decide

theorem witness_SrstEffect :
    ∃ t, exec .srst encoded = .next t := ⟨_, rfl⟩

theorem witness_SlotDescriptorFields :
    (3 : Nibble).toNat < State.reset.N ∧ State.reset.N ≤ (4 : Nibble).toNat := by decide

theorem witness_WrkeyEffect :
    (3 : Nibble).toNat < State.reset.N ∧ State.reset.N ≤ (4 : Nibble).toNat := by decide

theorem witness_WrordEffect :
    (3 : Nibble).toNat < State.reset.N ∧ (15 : Word).toNat < 16 ∧ 16 ≤ (16 : Word).toNat
    ∧ State.reset.N ≤ (4 : Nibble).toNat := by decide

theorem witness_WrspEffect :
    (3 : Nibble).toNat < State.reset.N ∧ State.reset.spAt (3 : Nibble).toNat = []
    ∧ encoded.spAt (3 : Nibble).toNat = 0x12 :: [0x3] ∧ State.reset.N ≤ (4 : Nibble).toNat := by decide

theorem witness_ScalarReadsEffect :
    seeded.p = some 0xFFFFFFFFFFFFFFC5 ∧ seeded.q = some 0xFFFFFFFFFFFFFFAD
    ∧ seeded.s = some 0xAB54A98CEB1F0AD2 ∧ keyed.v = some 0x0123456789ABCDEF ∧ State.reset.p = none
    ∧ State.reset.q = none ∧ State.reset.s = none ∧ State.reset.v = none := by decide

theorem witness_FileReadsEffect :
    (3 : Nibble).toNat < keyed.N ∧ keyed.keyAt (3 : Nibble).toNat = some 0xEB7B12BFE293207D
    ∧ keyed.ordAt (3 : Nibble).toNat = some 0 ∧ State.reset.keyAt (3 : Nibble).toNat = none
    ∧ State.reset.ordAt (3 : Nibble).toNat = none ∧ (1 : BitVec 1).toNat < (encoded.spAt (3 : Nibble).toNat).length
    ∧ (encoded.spAt (0 : Nibble).toNat).length ≤ (1 : BitVec 1).toNat ∧ keyed.N ≤ (4 : Nibble).toNat := by decide

theorem witness_FileWritesReadBack_key :
    State.reset.Sized ∧ ∃ t, exec (.wrkey 3 7) State.reset = .next t ∧ t.Accepted := ⟨by decide, _, rfl, by decide⟩

theorem witness_FileWritesReadBack_ord :
    State.reset.Sized ∧ ∃ t, exec (.wrord 3 15) State.reset = .next t ∧ t.Accepted := ⟨by decide, _, rfl, by decide⟩

theorem witness_FileWritesReadBack_sp0 :
    encoded.Sized ∧ ∃ t, exec (.wrsp 3 0 15) encoded = .next t ∧ t.Accepted := ⟨by decide, _, rfl, by decide⟩

theorem witness_FileWritesReadBack_sp1 :
    encoded.Sized ∧ ∃ t, exec (.wrsp 0 1 15) encoded = .next t ∧ t.Accepted := ⟨by decide, _, rfl, by decide⟩

theorem witness_RepeatedWriteChangesNothing :
    (Instr.wrsp 0 1 9).mnemonic ∈ [Mnemonic.wrp, .wrq, .wrs, .wrv, .wrkey, .wrord, .wrsp]
    ∧ ∃ t, exec (.wrsp 0 1 9) encoded = .next t := ⟨by decide, _, rfl⟩

theorem witness_KstepEffect :
    (3 : Nibble).toNat < seeded.N ∧ seeded.p = some 0xFFFFFFFFFFFFFFC5
    ∧ seeded.q = some 0xFFFFFFFFFFFFFFAD ∧ seeded.s = some 0xAB54A98CEB1F0AD2
    ∧ State.reset.s = none ∧ seeded.N ≤ (4 : Nibble).toNat := by decide

theorem witness_KeygenEffect :
    seeded.p = some 0xFFFFFFFFFFFFFFC5 ∧ seeded.q = some 0xFFFFFFFFFFFFFFAD
    ∧ seeded.s = some 0xAB54A98CEB1F0AD2 ∧ State.reset.s = none := by decide

theorem witness_KeyScheduleUnfolds : (0 : Nat) < 4 ∧ (3 : Nat) < 4 ∧ (4 : Nat) ≤ 4 := by decide

theorem witness_KeygenEqualsKsteps :
    seeded.Sized ∧ seeded.p ≠ none ∧ seeded.q ≠ none ∧ seeded.s ≠ none ∧ State.reset.p = none := by decide

theorem witness_DerivedKeysAreOdd_kstep :
    ∃ t k, exec (.kstep 3) seeded = .next t ∧ t.Accepted ∧ t.keyAt 3 = some k := ⟨_, 0x78A677DBC77C1685, rfl, by decide, by decide⟩

theorem witness_DerivedKeysAreOdd_keygen :
    ∃ t k, exec .keygen seeded = .next t ∧ t.Accepted ∧ t.keyAt 3 = some k := ⟨_, 0xEB7B12BFE293207D, rfl, by decide, by decide⟩

theorem witness_TransformFormulas :
    1 ≤ (1 : Word).toNat ∧ (63 : Word).toNat ≤ 63 := by decide

theorem witness_CatalogAndSpcheck :
    ([1, 2] : List Word).length ≠ arityOf 0 ∧ ([5] : List Word).length ≠ arityOf 3 := by decide

theorem witness_TencEffect :
    (3 : Nibble).toNat < slotThree.N ∧ slotThree.v = some 0x0123456789ABCDEF
    ∧ slotThree.keyAt (3 : Nibble).toNat = some 0xFEDCBA9876543211
    ∧ slotThree.keyAt (0 : Nibble).toNat = none ∧ slotThree.N ≤ (4 : Nibble).toNat := by decide

theorem witness_TdecEffect :
    encoded.v = some 0x7C44F6FE7647749A ∧ encoded.keyAt (3 : Nibble).toNat = some 0xEB7B12BFE293207D
    ∧ spcheck (kindOf (3 : Nibble).toNat) (encoded.spAt (3 : Nibble).toNat) = none
    ∧ spcheck (kindOf (3 : Nibble).toNat) (keyed.spAt (3 : Nibble).toNat) = some .spArity
    ∧ spcheck (kindOf 0) [64] = some .spRange ∧ State.reset.v = none ∧ encoded.N ≤ (4 : Nibble).toNat := by decide

theorem witness_TencThenTdecRestores :
    slotThree.Sized ∧ ∃ t, exec (.tenc 3) slotThree = .next t ∧ t.Accepted := ⟨by decide, _, rfl, by decide⟩

theorem witness_SelectOrderIsPermutation :
    1 ≤ (1 : Nat) ∧ selectOrder .two 15 1 = [0] := by decide

theorem witness_OrderSelectorParts :
    (0 : Nat) < 1 ∧ (15 : Nat) < 16 ∧ (14 : Nat) < 16 - 1 ∧ (0 : Nat) < [7].length := by decide

/-- A CORE with N = 4 after `SELORD 9`, with keys and a block. -/
def selected : State := { keyed with cw := 9, cwv := true }

theorem witness_SelordMakesOrderValid_invariant :
    selected.Inv ∧ selected.cwv = true
    ∧ ∃ t r, exec .dec selected = .next t ∧ t.rsp = some r := ⟨by decide, rfl, _, _, rfl, rfl⟩

theorem witness_SelordMakesOrderValid_run :
    ∃ t u r, exec (.selord 15) keyed = .next t
    ∧ (∀ cmd ∈ [({ cmd := 0x5000, wdata := 0 } : Command)], ∀ p d, decode cmd ≠ .ok (.wrord p d))
    ∧ u ∈ executions t [{ cmd := 0x5000, wdata := 0 }] ∧ u.rsp = some r := by
  have h : decode { cmd := 0x5000, wdata := 0 } = .ok .enc := by decide
  refine ⟨_, _, _, rfl, ?_, List.mem_singleton.mpr rfl, rfl⟩
  intro cmd hc p d
  rw [List.mem_singleton.mp hc, h]
  exact nofun

theorem witness_ValidPermMeaning :
    [2, 1, 3, 0].length = 4 ∧ validPerm 4 [2, 1, 3, 0] = true ∧ validPerm 4 [0, 1, 2, 4] = false := by decide

theorem witness_BlockEntryChecks_uninit :
    State.reset.v = none ∧ (0 < slotThree.N ∧ slotThree.keyAt 0 = none)
    ∧ (3 < slotThree.N ∧ slotThree.ordAt 3 = none) := by decide

/-- Every slot below 4 stands at exactly one position of the order 2, 1, 3, 0. -/
theorem keyed_order_unique (st : State) (hN : st.N = 4) (ho : st.ord = [2, 1, 3, 0].map some) :
    ∀ i, i < st.N → ∃! p, p < st.N ∧ st.ordAt p = some (BitVec.ofNat 4 i) := by
  have h : ∀ i, i < 4 → ∃ p, (p < 4 ∧ readEntry ([2, 1, 3, 0].map some) p = some (BitVec.ofNat 4 i))
      ∧ ∀ p', p' < 4 → readEntry ([2, 1, 3, 0].map some) p' = some (BitVec.ofNat 4 i) → p' = p := by
    intro i hi
    match i, hi with
    | 0, _ => exact ⟨3, by decide, by decide⟩
    | 1, _ => exact ⟨1, by decide, by decide⟩
    | 2, _ => exact ⟨0, by decide, by decide⟩
    | 3, _ => exact ⟨2, by decide, by decide⟩
  intro i hi
  rw [hN] at hi ⊢
  obtain ⟨p, hp, hu⟩ := h i hi
  refine ⟨p, by simpa [State.ordAt, ho] using hp, fun p' hp' => hu p' hp'.1 ?_⟩
  simpa [State.ordAt, ho] using hp'.2

/-- A CORE whose order names slot 4, which an N = 4 CORE does not have. -/
def disordered : State := { keyed with ord := [0, 1, 2, 4].map some }

/-- A CORE whose only bad side parameter is the last count of slot 3. -/
def miscounted : State := { encoded with sp := [[0x23], [0], [0], [5, 64]] }

theorem witness_BlockEntryChecks_order :
    disordered.v ≠ none ∧ (∀ i, i < disordered.N → disordered.keyAt i ≠ none)
    ∧ (∀ p, p < disordered.N → disordered.ordAt p ≠ none)
    ∧ ¬ (∀ i, i < disordered.N → ∃! p, p < disordered.N ∧ disordered.ordAt p = some (BitVec.ofNat 4 i)) := by
  refine ⟨by decide, by decide, by decide, fun h => ?_⟩
  obtain ⟨p, ⟨hp, ho⟩, _⟩ := h 3 (by decide)
  exact absurd ho ((by decide : ∀ p, p < disordered.N → disordered.ordAt p ≠ some (BitVec.ofNat 4 3)) p hp)

theorem witness_BlockEntryChecks_sp :
    miscounted.v ≠ none ∧ (∀ i, i < miscounted.N → miscounted.keyAt i ≠ none)
    ∧ (∀ p, p < miscounted.N → miscounted.ordAt p ≠ none)
    ∧ (∀ i, i < miscounted.N → ∃! p, p < miscounted.N ∧ miscounted.ordAt p = some (BitVec.ofNat 4 i))
    ∧ 3 < miscounted.N ∧ (∀ j, j < 3 → spcheck (kindOf j) (miscounted.spAt j) = none)
    ∧ spcheck (kindOf 3) (miscounted.spAt 3) = some .spRange :=
  ⟨by decide, by decide, by decide, keyed_order_unique miscounted rfl rfl, by decide, by decide, by decide⟩

theorem witness_EncDecEffect :
    keyed.v = some 0x0123456789ABCDEF
    ∧ (∀ i, i < keyed.N → keyed.keyAt i
        = [0x78A677DBC77C1685, 0xDE170866EA77D567, 0x46A4D876CC279DB3, 0xEB7B12BFE293207D][i]?)
    ∧ (∀ p, p < keyed.N → keyed.ordAt p = [2, 1, 3, 0][p]?)
    ∧ (([2, 1, 3, 0] : List Nibble).map BitVec.toNat).Perm (List.range keyed.N)
    ∧ ∀ i, i < encoded.N → spcheck (kindOf i) (encoded.spAt i) = none := by decide

theorem witness_EncEqualsTencs :
    keyed.Sized ∧ keyed.ord = ([2, 1, 3, 0] : List Nibble).map some
    ∧ ∃ t, exec .enc keyed = .next t ∧ t.Accepted := ⟨by decide, rfl, _, rfl, by decide⟩

theorem witness_DecEqualsTdecs :
    encoded.Sized ∧ encoded.ord = ([2, 1, 3, 0] : List Nibble).map some
    ∧ ∃ t, exec .dec encoded = .next t ∧ t.Accepted := ⟨by decide, rfl, _, rfl, by decide⟩

theorem witness_EncThenDecRestoresBlock :
    ∃ t u, exec .enc keyed = .next t ∧ t.Accepted ∧ u = { t with p := some 1, err := 3, cw := 7 }
    ∧ u.cfg = t.cfg ∧ u.v = t.v ∧ u.key = t.key ∧ u.ord = t.ord ∧ u.sp = t.sp := ⟨_, _, rfl, by decide, rfl, rfl, rfl, rfl, rfl, rfl⟩

theorem witness_EncDependsOnOperandsOnly :
    keyed.Sized ∧ ({ keyed with p := some 1, sp := encoded.sp } : State).Sized
    ∧ keyed.cfg = { keyed with p := some 1, sp := encoded.sp }.cfg
    ∧ keyed.key = { keyed with p := some 1, sp := encoded.sp }.key
    ∧ ∃ t₁ t₂, exec .enc keyed = .next t₁
    ∧ exec .enc { keyed with p := some 1, sp := encoded.sp } = .next t₂ ∧ t₁.Accepted ∧ t₂.Accepted :=
  ⟨by decide, by decide, rfl, rfl, _, _, rfl, rfl, by decide, by decide⟩

theorem witness_BlockMacrosRoundTrip :
    keyed.Sized ∧ ∀ i, i < keyed.N → keyed.keyAt i ≠ none := by decide

theorem witness_GenkeysGivesSchedule :
    (3 : Nibble).toNat < seeded.N
    ∧ (generateKeys 0 0 0 seeded.N).1[(3 : Nibble).toNat]? = some 0xFFFFFFFFFFFFFFFF := by decide

theorem witness_RefusedCommandsArePrecise :
    ∃ t r, exec .enc State.reset = .next t ∧ t.rsp = some r ∧ r.err ≠ 0 := ⟨_, _, rfl, rfl, by decide⟩

theorem witness_ErrorsPerCommand_index :
    ∃ t r, exec (.rdslot 4) State.reset = .next t ∧ t.rsp = some r ∧ r.err = 2 := ⟨_, _, rfl, rfl, by decide⟩

theorem witness_ErrorsPerCommand_operand :
    ∃ t r, exec (.wrord 0 16) State.reset = .next t ∧ t.rsp = some r ∧ r.err = 3 := ⟨_, _, rfl, rfl, by decide⟩

theorem witness_ErrorsPerCommand_uninit :
    ∃ t r, exec (.rdp) State.reset = .next t ∧ t.rsp = some r ∧ r.err = 4 := ⟨_, _, rfl, rfl, by decide⟩

theorem witness_ErrorsPerCommand_order :
    ∃ t r, exec (.enc) { keyed with ord := [0, 1, 1, 3].map some } = .next t ∧ t.rsp = some r ∧ r.err = 5 := ⟨_, _, rfl, rfl, by decide⟩

theorem witness_ErrorsPerCommand_arity :
    ∃ t r, exec (.wrsp 0 1 0) State.reset = .next t ∧ t.rsp = some r ∧ r.err = 6 := ⟨_, _, rfl, rfl, by decide⟩

theorem witness_ErrorsPerCommand_range :
    ∃ t r, exec (.dec) { encoded with sp := [[64], [7], [7], [1]] } = .next t ∧ t.rsp = some r ∧ r.err = 7 := ⟨_, _, rfl, rfl, by decide⟩

theorem witness_WriteMatrix :
    ∃ t, exec (.tenc 3) slotThree = .next t ∧ t.Accepted
    ∧ (Instr.tenc 3).mnemonic ∉ [Mnemonic.wrp, .srst] := ⟨_, rfl, by decide, by decide⟩

theorem witness_FlagsStaySet :
    keyed.Sized ∧ (∃ t, exec (.wrp 5) keyed = .next t ∧ t.p = some 5) ∧ keyed.p ≠ some 5
    ∧ (∃ t, exec (.wrq 5) keyed = .next t ∧ t.q = some 5) ∧ keyed.q ≠ some 5
    ∧ (keyed.keyAt 3).isSome = true ∧ (keyed.ordAt 3).isSome = true ∧ encoded.spAt 3 ≠ [] := ⟨by decide, ⟨_, rfl, rfl⟩, by decide, ⟨_, rfl, rfl⟩, by decide, by decide, by decide, by decide⟩

theorem witness_ErrorRecordReadByNoCheck :
    Instr.enc ≠ .rdst ∧ ∃ t, exec .enc keyed = .next t := ⟨by decide, _, rfl⟩

theorem witness_ErrZeroMeansNothingRefused :
    State.reset.err = 0 ∧ clearsRecord { cmd := 0x5000, wdata := 0 } = false
    ∧ clearsRecord { cmd := 0x1000, wdata := 0 } = false := by decide

theorem witness_StepKeepsInvariant :
    (encoded.present { cmd := 0x5100, wdata := 0 }).Inv
    ∧ ∃ t, step (encoded.present { cmd := 0x5100, wdata := 0 }) = .next t := ⟨by decide, _, rfl⟩

end Sys2Proof.Tests
end

section
/-! PROOFS. The order selector and the register files: what the orchestrator's operands are after `SELORD`. -/

namespace Sys2Proof.Machine

/-! ## The number of slots (R7) -/

theorem State.N_pos (st : State) : 0 < st.N := Nat.succ_pos _

theorem State.N_le_sixteen (st : State) : st.N ≤ 16 := st.cfg.lastSlot.isLt

/-! ## The selected order is a permutation (R170 to R176) -/

theorem rotateLeftOne_perm (xs : List Nat) : (rotateLeftOne xs).Perm xs := by
  cases xs with
  | nil => exact .nil
  | cons x rest => exact List.perm_append_singleton x rest

theorem rotateRightOne_perm (xs : List Nat) : (rotateRightOne xs).Perm xs :=
  (List.reverse_perm _).trans ((rotateLeftOne_perm _).trans (List.reverse_perm _))

/-- Each of the four arrangements only reorders the remaining list (R174). -/
theorem arrange_perm (pattern : BitVec 2) (xs : List Nat) : (arrange pattern xs).Perm xs := by
  unfold arrange
  split
  · exact .refl _
  · exact List.reverse_perm _
  · exact rotateLeftOne_perm xs
  · exact rotateRightOne_perm xs

/-- The first transform is a slot of the CORE (R171). -/
theorem firstTransform_lt (c : Nibble) {n : Nat} (hn : 0 < n) : firstTransform c n < n := by
  have hc : c.toNat * n < 16 * n := Nat.mul_lt_mul_of_pos_right c.isLt hn
  exact Nat.div_lt_of_lt_mul hc

/-- `first` in front of the remaining indices is all indices (R173). -/
theorem cons_remainingOf_perm {first n : Nat} (h : first < n) :
    (first :: remainingOf first n).Perm (List.range n) := by
  have herase : (List.range n).erase first = remainingOf first n := by
    rw [List.nodup_range.erase_eq_filter]
    exact List.filter_congr fun i _ => Bool.eq_iff_iff.2 (by simp)
  rw [← herase]
  exact (List.perm_cons_erase (List.mem_range.2 h)).symm

/-- The selected order holds every slot exactly once (R176). -/
theorem selectOrder_perm (lsb : PatternLsb) (c : Nibble) {n : Nat} (hn : 0 < n) :
    (selectOrder lsb c n).Perm (List.range n) :=
  ((arrange_perm _ _).cons _).trans (cons_remainingOf_perm (firstTransform_lt c hn))

theorem selectOrder_length (lsb : PatternLsb) (c : Nibble) {n : Nat} (hn : 0 < n) :
    (selectOrder lsb c n).length = n := by
  simpa using (selectOrder_perm lsb c hn).length_eq

/-- The slots of a selected order fit the 4-bit entries of `ORD`, so storing them loses nothing (R35, R178). -/
theorem selectOrder_toNat (lsb : PatternLsb) (c : Nibble) {n : Nat} (hn : 0 < n) (h16 : n ≤ 16) :
    ((selectOrder lsb c n).map (BitVec.ofNat 4)).map BitVec.toNat = selectOrder lsb c n := by
  rw [List.map_map]
  refine (List.map_congr_left fun id hid => ?_).trans (List.map_id _)
  have hlt : id < n := List.mem_range.1 ((selectOrder_perm lsb c hn).mem_iff.1 hid)
  simpa using Nat.mod_eq_of_lt (by omega : id < 16)

/-- A permutation of the slots passes the order check (R186). -/
theorem validPerm_of_perm {n : Nat} {order : List Nat} (h : order.Perm (List.range n)) :
    validPerm n order = true := by
  simp only [validPerm, List.all_eq_true, beq_iff_eq]
  intro i hi
  rw [h.count_eq, List.count_eq_one_of_mem List.nodup_range hi]

/-! ## Whole register files -/

/-- A file whose entries are all valid reads back as the list of their values. -/
theorem readFile_map_some {α : Type} {n : Nat} {values : List α} (h : values.length = n) :
    readFile n (values.map some) = some values := by
  rw [readFile_of_length (by simpa using h), allValues_eq_some]

/-- When every flag of a file is 1, its values can be read. -/
theorem exists_readFile {α : Type} {n : Nat} {file : List (Flagged α)}
    (h : ∀ i, i < n → readEntry file i ≠ none) : ∃ values, readFile n file = some values := by
  refine Option.ne_none_iff_exists'.1 fun hnone => ?_
  obtain ⟨i, hi, hentry⟩ := (readFile_eq_none n file).1 hnone
  exact h i hi hentry

/-! ## The key schedule's size -/

@[simp] theorem generateKeys_length (p q s : Word) (n : Nat) : (generateKeys p q s n).1.length = n := by
  induction n generalizing s with
  | zero => rfl
  | succ n ih => simp [generateKeys, ih]

end Sys2Proof.Machine
end

section
/-! PROOFS. The transforms and the block functions: decoding undoes encoding (R149, R190). -/

namespace Sys2Proof.Machine

/-! ## One transform -/

/-- A recorded rotation count is the number itself (R141, R147). -/
theorem toNat_ofNat_count {r : Nat} (h : r < 64) : (BitVec.ofNat 64 r).toNat = r := by
  rw [BitVec.toNat_ofNat]; omega

/-- Decoding with the recorded side parameters undoes encoding (R149). -/
@[simp] theorem tdec_tenc (kind : Kind) (v k : Word) :
    tdec kind (tenc kind v k).1 k (tenc kind v k).2 = v := by
  cases kind with
  | t1 =>
    have hr : k.toNat % 63 + 1 < 64 := by omega
    simp [tdec, tenc, t1Encode, t1Decode, spWord, toNat_ofNat_count hr, rotr_rotl _ hr, -BitVec.toNat_ofNat]
  | t2 => simp [tdec, tenc, t2Encode, t2Decode, spWord, rotr_rotl]
  | t3 => simp [tdec, tenc, t3Encode, t3Decode, spWord, rotr_rotl]
  | t4 =>
    have hr1 : k.toNat % 31 + 1 < 64 := by omega
    have hr2 : (shr k 8).toNat % 31 + 1 < 64 := by omega
    simp [tdec, tenc, t4Encode, t4Decode, spWord, toNat_ofNat_count hr1, toNat_ofNat_count hr2,
      rotr_rotl _ hr1, rotl_rotr _ hr2, -BitVec.toNat_ofNat]

/-- The side parameters depend on the key only (R149). -/
theorem tenc_snd_eq (kind : Kind) (v w k : Word) : (tenc kind v k).2 = (tenc kind w k).2 := by
  cases kind <;> rfl

/-- An encode records as many words as its kind needs (R151). -/
@[simp] theorem tenc_snd_length (kind : Kind) (v k : Word) : (tenc kind v k).2.length = kind.arity := by
  cases kind <;> rfl

theorem Kind.arity_le_two (kind : Kind) : kind.arity ≤ 2 := by cases kind <;> decide

/-- A number from 1 to 63 is a usable rotation count (R155). -/
theorem isCount_ofNat {r : Nat} (h1 : 1 ≤ r) (h63 : r ≤ 63) : isCount (BitVec.ofNat 64 r) = true := by
  rw [isCount_eq_true, toNat_ofNat_count (by omega)]
  exact ⟨h1, h63⟩

/-- What an encode records passes the check of a decode (R190). -/
@[simp] theorem spcheck_tenc (kind : Kind) (v k : Word) : spcheck kind (tenc kind v k).2 = none := by
  unfold spcheck
  rw [if_neg (by simp)]
  cases kind with
  | t1 =>
    have h : isCount (BitVec.ofNat 64 (k.toNat % 63 + 1)) = true := isCount_ofNat (by omega) (by omega)
    simp [tenc, t1Encode, spWord, h]
  | t2 => rfl
  | t3 => rfl
  | t4 =>
    have h1 : isCount (BitVec.ofNat 64 (k.toNat % 31 + 1)) = true := isCount_ofNat (by omega) (by omega)
    have h2 : isCount (BitVec.ofNat 64 ((shr k 8).toNat % 31 + 1)) = true :=
      isCount_ofNat (by omega) (by omega)
    simp [tenc, t4Encode, spWord, h1, h2]

/-! ## A block -/

theorem encodeBlock_cons (keys : List Word) (id : Nat) (order : List Nat) (w : Word) (sps : List (List Word)) :
    encodeBlock keys (id :: order) w sps =
      encodeBlock keys order (tenc (kindOf id) w (keys.getD id 0)).1
        (sps.set id (tenc (kindOf id) w (keys.getD id 0)).2) := rfl

@[simp] theorem encodeBlock_snd_length (keys : List Word) (order : List Nat) (w : Word)
    (sps : List (List Word)) : (encodeBlock keys order w sps).2.length = sps.length := by
  induction order generalizing w sps with
  | nil => rfl
  | cons id order ih => rw [encodeBlock_cons, ih, List.length_set]

/-- What encoding a block leaves for a slot: the side parameters of its key when the slot is in the order,
what was there otherwise (R191, R194). -/
theorem encodeBlock_sp (keys : List Word) (order : List Nat) (w : Word) (sps : List (List Word))
    (hlt : ∀ id ∈ order, id < sps.length) (j : Nat) :
    (encodeBlock keys order w sps).2.getD j [] =
      if j ∈ order then (tenc (kindOf j) 0 (keys.getD j 0)).2 else sps.getD j [] := by
  induction order generalizing w sps with
  | nil => simp [encodeBlock]
  | cons id order ih =>
    obtain ⟨hid, horder⟩ := List.forall_mem_cons.1 hlt
    rw [encodeBlock_cons, ih _ _ (by simpa using horder)]
    by_cases hj : j = id
    · subst hj
      simp [hid, tenc_snd_eq (kindOf j) w 0]
    · simp [hj, Ne.symm hj]

/-- Every sequence that encoding a block leaves is one it found or one an encode recorded. -/
theorem encodeBlock_sp_length_le {keys : List Word} {order : List Nat} {w : Word} {sps : List (List Word)}
    (h : ∀ words ∈ sps, words.length ≤ 2) :
    ∀ words ∈ (encodeBlock keys order w sps).2, words.length ≤ 2 := by
  induction order generalizing w sps with
  | nil => exact h
  | cons id order ih =>
    rw [encodeBlock_cons]
    refine ih fun words hwords => ?_
    obtain hold | rfl := List.mem_or_eq_of_mem_set hwords
    · exact h words hold
    · simpa using Kind.arity_le_two _

theorem decodeSlots_append (keys : List Word) (sps : List (List Word)) (ids ids' : List Nat) (w : Word) :
    decodeSlots keys sps (ids ++ ids') w = decodeSlots keys sps ids' (decodeSlots keys sps ids w) := by
  induction ids generalizing w with
  | nil => rfl
  | cons id ids ih => exact ih _

/-- The first slot of the order is decoded last (R189). -/
theorem decodeBlock_cons (keys : List Word) (id : Nat) (order : List Nat) (sps : List (List Word)) (w : Word) :
    decodeBlock keys (id :: order) sps w =
      tdec (kindOf id) (decodeBlock keys order sps w) (keys.getD id 0) (sps.getD id []) := by
  rw [decodeBlock, List.reverse_cons, decodeSlots_append]
  rfl

/-- Decoding a block with the side parameters its encoding left gives it back, when no slot comes twice
(R190). -/
theorem decodeBlock_encodeBlock {keys : List Word} {order : List Nat} {w : Word} {sps : List (List Word)}
    (hnodup : order.Nodup) (hlt : ∀ id ∈ order, id < sps.length) :
    decodeBlock keys order (encodeBlock keys order w sps).2 (encodeBlock keys order w sps).1 = w := by
  induction order generalizing w sps with
  | nil => rfl
  | cons id order ih =>
    have hsp := encodeBlock_sp keys (id :: order) w sps hlt id
    obtain ⟨hnotin, hnodup⟩ := List.nodup_cons.1 hnodup
    obtain ⟨hid, horder⟩ := List.forall_mem_cons.1 hlt
    rw [if_pos List.mem_cons_self, tenc_snd_eq _ 0 w] at hsp
    rw [decodeBlock_cons, hsp, encodeBlock_cons, ih hnodup (by simpa using horder), tdec_tenc]

end Sys2Proof.Machine
end

section
/-! PROOFS. What a command can do, said once: it is refused by one error entry, or it performs the change its
rule gives and answers. -/

namespace Sys2Proof.Machine

/-- A command that reads registers and writes none (R45). -/
def Mnemonic.readsOnly : Mnemonic → Bool
  | .nop | .rdst | .rdslot | .rdp | .rdq | .rds | .rdv | .rdkey | .rdord | .rdsp => true
  | .clrerr | .srst | .wrp | .wrq | .wrs | .wrv | .wrkey | .wrord | .wrsp | .kstep | .keygen | .tenc | .tdec
  | .selord | .enc | .dec => false

/-- What a command that passes its checks makes of the registers, before its response: the perform part of R13
with the checks that let it through. -/
inductive Performs (st : State) : Instr → State → Prop
  | reads {i : Instr} (h : Mnemonic.readsOnly i.mnemonic = true) : Performs st i st
  | clrerr : Performs st .clrerr st.clearError
  | srst : Performs st .srst st.clearAll
  | wrp (d : Word) : Performs st (.wrp d) { st with p := some d }
  | wrq (d : Word) : Performs st (.wrq d) { st with q := some d }
  | wrs (d : Word) : Performs st (.wrs d) { st with s := some d }
  | wrv (d : Word) : Performs st (.wrv d) { st with v := some d }
  | wrkey {i : Nibble} (hi : i.toNat < st.N) (d : Word) : Performs st (.wrkey i d) (st.setKey i.toNat d)
  | wrord {p : Nibble} {d : Word} (hp : p.toNat < st.N) (hd : d.toNat < 16) :
      Performs st (.wrord p d) { st.setOrd p.toNat (lowNibble d) with cwv := false }
  | wrsp {i : Nibble} {j : BitVec 1} {d : Word} {words : List Word} (hi : i.toNat < st.N)
      (hw : writeSpWord (st.spAt i.toNat) j d = some words) :
      Performs st (.wrsp i j d) (st.setSp i.toNat words)
  | kstep {i : Nibble} {p q s : Word} (hi : i.toNat < st.N) (hp : st.p = some p) (hq : st.q = some q)
      (hs : st.s = some s) :
      Performs st (.kstep i) { st.setKey i.toNat (keystep p q s).1 with s := some (keystep p q s).2 }
  | keygen {p q s : Word} (hp : st.p = some p) (hq : st.q = some q) (hs : st.s = some s) :
      Performs st .keygen
        { st with key := (generateKeys p q s st.N).1.map some, s := some (generateKeys p q s st.N).2 }
  | tenc {i : Nibble} {v k : Word} (hi : i.toNat < st.N) (hv : st.v = some v)
      (hk : st.keyAt i.toNat = some k) :
      Performs st (.tenc i)
        { st.setSp i.toNat (tenc (kindOf i.toNat) v k).2 with v := some (tenc (kindOf i.toNat) v k).1 }
  | tdec {i : Nibble} {v k : Word} (hi : i.toNat < st.N) (hv : st.v = some v)
      (hk : st.keyAt i.toNat = some k) (hsp : spcheck (kindOf i.toNat) (st.spAt i.toNat) = none) :
      Performs st (.tdec i) { st with v := some (tdec (kindOf i.toNat) v k (st.spAt i.toNat)) }
  | selord (c : Nibble) :
      Performs st (.selord c)
        { st with
          ord := (selectOrder st.cfg.patternLsb c st.N).map (fun i => some (BitVec.ofNat 4 i))
          cw := c
          cwv := true }
  | enc {b : BlockOperands} (hb : st.blockOperands = .ok b) :
      Performs st .enc
        { st with
          v := some (encodeBlock b.keys b.order b.v st.sp).1
          sp := (encodeBlock b.keys b.order b.v st.sp).2 }
  | dec {b : BlockOperands} (hb : st.blockOperands = .ok b) (hsp : st.firstSpError = none) :
      Performs st .dec { st with v := some (decodeBlock b.keys b.order st.sp b.v) }

/-- A command is refused by one error entry with its own word. -/
def Refuses (st : State) (i : Instr) : Prop := ∃ e, exec i st = .next (st.raise e i.word)

/-- A command performs its change and answers. -/
def Completes (st : State) (i : Instr) : Prop :=
  ∃ u w, Performs st i u ∧ exec i st = .next (u.respond w)

/-- A command that tests its index (R253) is refused, or is what stands behind the test. -/
theorem refuses_or_completes_of_indexTest {st : State} {i : Instr} {idx : Nibble} {r : Result}
    (h : exec i st = if st.hasIndex idx then r else fail st .index i)
    (passed : idx.toNat < st.N → exec i st = r → Refuses st i ∨ Completes st i) :
    Refuses st i ∨ Completes st i := by
  by_cases hi : idx.toNat < st.N
  · exact passed hi (by rw [h, if_pos (by simpa using hi)])
  · exact .inl ⟨.index, by rw [h, if_neg (by simpa using hi)]; rfl⟩

/-- A command that answers with a register is refused when the register holds no value (R200, R255). -/
theorem refuses_or_completes_of_readFlagged {st : State} {i : Instr} {r : Flagged Word}
    (hread : Mnemonic.readsOnly i.mnemonic = true) (h : exec i st = readFlagged st r i) :
    Refuses st i ∨ Completes st i := by
  obtain ⟨w, -, hw⟩ | ⟨-, hnone⟩ := readFlagged_cases st r i
  · exact .inr ⟨st, w, .reads hread, h.trans hw⟩
  · exact .inl ⟨.uninit, h.trans hnone⟩

theorem wrord_refuses_or_completes (st : State) (p : Nibble) (d : Word) :
    Refuses st (.wrord p d) ∨ Completes st (.wrord p d) := by
  refine refuses_or_completes_of_indexTest rfl fun hp h => ?_
  by_cases hd : d.toNat < 16
  · exact .inr ⟨_, 0, .wrord hp hd, h.trans (if_pos (by simpa using hd))⟩
  · exact .inl ⟨.operand, h.trans (if_neg (by simpa using hd))⟩

theorem wrsp_refuses_or_completes (st : State) (i : Nibble) (j : BitVec 1) (d : Word) :
    Refuses st (.wrsp i j d) ∨ Completes st (.wrsp i j d) := by
  refine refuses_or_completes_of_indexTest rfl fun hi h => ?_
  cases hw : writeSpWord (st.spAt i.toNat) j d with
  | none => exact .inl ⟨.spArity, h.trans (by simp [hw])⟩
  | some words => exact .inr ⟨_, 0, .wrsp hi hw, h.trans (by simp [hw])⟩

theorem kstep_refuses_or_completes (st : State) (i : Nibble) :
    Refuses st (.kstep i) ∨ Completes st (.kstep i) := by
  refine refuses_or_completes_of_indexTest rfl fun hi h => ?_
  match hp : st.p, hq : st.q, hs : st.s with
  | some p, some q, some s => exact .inr ⟨_, 0, .kstep hi hp hq hs, h.trans (by simp [hp, hq, hs])⟩
  | none, _, _ => exact .inl ⟨.uninit, h.trans (by simp [hp])⟩
  | some _, none, _ => exact .inl ⟨.uninit, h.trans (by simp [hq])⟩
  | some _, some _, none => exact .inl ⟨.uninit, h.trans (by simp [hs])⟩

theorem keygen_refuses_or_completes (st : State) : Refuses st .keygen ∨ Completes st .keygen := by
  match hp : st.p, hq : st.q, hs : st.s with
  | some p, some q, some s => exact .inr ⟨_, 0, .keygen hp hq hs, by simp [exec, execKeygen, hp, hq, hs]⟩
  | none, _, _ => exact .inl ⟨.uninit, by simp [exec, execKeygen, hp]⟩
  | some _, none, _ => exact .inl ⟨.uninit, by simp [exec, execKeygen, hq]⟩
  | some _, some _, none => exact .inl ⟨.uninit, by simp [exec, execKeygen, hs]⟩

theorem tenc_refuses_or_completes (st : State) (i : Nibble) :
    Refuses st (.tenc i) ∨ Completes st (.tenc i) := by
  refine refuses_or_completes_of_indexTest rfl fun hi h => ?_
  match hv : st.v, hk : st.keyAt i.toNat with
  | some v, some k => exact .inr ⟨_, 0, .tenc hi hv hk, h.trans (by simp [hv, hk])⟩
  | none, _ => exact .inl ⟨.uninit, h.trans (by simp [hv])⟩
  | some _, none => exact .inl ⟨.uninit, h.trans (by simp [hk])⟩

theorem tdec_refuses_or_completes (st : State) (i : Nibble) :
    Refuses st (.tdec i) ∨ Completes st (.tdec i) := by
  refine refuses_or_completes_of_indexTest rfl fun hi h => ?_
  match hv : st.v, hk : st.keyAt i.toNat, hsp : spcheck (kindOf i.toNat) (st.spAt i.toNat) with
  | some v, some k, none => exact .inr ⟨_, 0, .tdec hi hv hk hsp, h.trans (by simp [hv, hk, hsp])⟩
  | some v, some k, some e => exact .inl ⟨e, h.trans (by simp [hv, hk, hsp])⟩
  | none, _, _ => exact .inl ⟨.uninit, h.trans (by simp [hv])⟩
  | some _, none, _ => exact .inl ⟨.uninit, h.trans (by simp [hk])⟩

theorem enc_refuses_or_completes (st : State) : Refuses st .enc ∨ Completes st .enc := by
  cases hb : st.blockOperands with
  | error e => exact .inl ⟨e, by simp [exec, execEnc, hb]⟩
  | ok b => exact .inr ⟨_, 0, .enc hb, by simp [exec, execEnc, hb]⟩

theorem dec_refuses_or_completes (st : State) : Refuses st .dec ∨ Completes st .dec := by
  match hb : st.blockOperands, hsp : st.firstSpError with
  | .error e, _ => exact .inl ⟨e, by simp [exec, execDec, hb]⟩
  | .ok b, some e => exact .inl ⟨e, by simp [exec, execDec, hb, hsp]⟩
  | .ok b, none => exact .inr ⟨_, 0, .dec hb hsp, by simp [exec, execDec, hb, hsp]⟩

/-- Every command, in every state, is refused by one error entry or completes (R13, R262, R265). -/
theorem refuses_or_completes (st : State) (i : Instr) : Refuses st i ∨ Completes st i := by
  cases i with
  | nop => exact .inr ⟨_, 0, .reads rfl, rfl⟩
  | rdst => exact .inr ⟨_, st.status, .reads rfl, rfl⟩
  | clrerr => exact .inr ⟨_, 0, .clrerr, rfl⟩
  | srst => exact .inr ⟨_, 0, .srst, rfl⟩
  | rdslot i =>
    exact refuses_or_completes_of_indexTest rfl fun _ h => .inr ⟨_, st.slotWord i.toNat, .reads rfl, h⟩
  | wrp d => exact .inr ⟨_, 0, .wrp d, rfl⟩
  | wrq d => exact .inr ⟨_, 0, .wrq d, rfl⟩
  | wrs d => exact .inr ⟨_, 0, .wrs d, rfl⟩
  | wrv d => exact .inr ⟨_, 0, .wrv d, rfl⟩
  | wrkey i d => exact refuses_or_completes_of_indexTest rfl fun hi h => .inr ⟨_, 0, .wrkey hi d, h⟩
  | wrord p d => exact wrord_refuses_or_completes st p d
  | wrsp i j d => exact wrsp_refuses_or_completes st i j d
  | rdp => exact refuses_or_completes_of_readFlagged rfl rfl
  | rdq => exact refuses_or_completes_of_readFlagged rfl rfl
  | rds => exact refuses_or_completes_of_readFlagged rfl rfl
  | rdv => exact refuses_or_completes_of_readFlagged rfl rfl
  | rdkey i =>
    exact refuses_or_completes_of_indexTest rfl fun _ h => refuses_or_completes_of_readFlagged rfl h
  | rdord p =>
    exact refuses_or_completes_of_indexTest rfl fun _ h => refuses_or_completes_of_readFlagged rfl h
  | rdsp i j =>
    exact refuses_or_completes_of_indexTest rfl fun _ h => refuses_or_completes_of_readFlagged rfl h
  | kstep i => exact kstep_refuses_or_completes st i
  | keygen => exact keygen_refuses_or_completes st
  | tenc i => exact tenc_refuses_or_completes st i
  | tdec i => exact tdec_refuses_or_completes st i
  | selord c => exact .inr ⟨_, 0, .selord c, rfl⟩
  | enc => exact enc_refuses_or_completes st
  | dec => exact dec_refuses_or_completes st

/-- The inversion of one command: the next state is that of an error entry, or that of a performed change
with a response. -/
theorem exec_cases {i : Instr} {st t : State} (h : exec i st = .next t) :
    (∃ e, t = st.raise e i.word) ∨ ∃ u w, Performs st i u ∧ t = u.respond w := by
  obtain ⟨e, he⟩ | ⟨u, w, hu, hw⟩ := refuses_or_completes st i
  · exact .inl ⟨e, Host.Outcome.next.inj (h.symm.trans he)⟩
  · exact .inr ⟨u, w, hu, Host.Outcome.next.inj (h.symm.trans hw)⟩

end Sys2Proof.Machine
end

section
/-! PROOFS. The invariant of R46: every change of the state keeps it. -/

namespace Sys2Proof.Machine

/-! ## Shared operations -/

theorem State.Inv.respond {st : State} (h : st.Inv) (w : Word) : (st.respond w).Inv := h

/-- Error entry records a code with the command that raised it, so `ERR = 0` still means no record. -/
theorem State.Inv.raise {st : State} (h : st.Inv) (e : ErrCode) (cmd : CmdWord) : (st.raise e cmd).Inv := by
  obtain ⟨hsized, hsp, hecmd, herr, hcw⟩ := h
  refine ⟨hsized, hsp, ?_, ?_, hcw⟩
  · by_cases h0 : st.err = 0#4
    · simp [h0]
    · simp [h0]
  · by_cases h0 : st.err = 0#4
    · simpa [h0] using e.code_le_seven
    · simpa [h0] using herr

theorem State.Inv.clearError {st : State} (h : st.Inv) : st.clearError.Inv := by
  obtain ⟨hsized, hsp, -, -, hcw⟩ := h
  exact ⟨hsized, hsp, fun _ => rfl, by simp, hcw⟩

/-- The cleared state has the invariant, whatever the state was. -/
theorem State.inv_clearAll (st : State) : st.clearAll.Inv := by
  refine ⟨⟨by simp, by simp, by simp⟩, ?_, fun _ => rfl, by simp, by simp⟩
  rintro words hwords
  simp [List.eq_of_mem_replicate hwords]

theorem State.Inv.withKey {st : State} (h : st.Inv) {key : List (Flagged Word)} (hlen : key.length = st.N) :
    { st with key := key }.Inv := by
  obtain ⟨⟨-, hord, hspl⟩, hrest⟩ := h
  exact ⟨⟨hlen, hord, hspl⟩, hrest⟩

theorem State.Inv.withSp {st : State} (h : st.Inv) {sp : List (List Word)} (hlen : sp.length = st.N)
    (hwords : ∀ words ∈ sp, words.length ≤ 2) : { st with sp := sp }.Inv := by
  obtain ⟨⟨hkey, hord, -⟩, -, hrest⟩ := h
  exact ⟨⟨hkey, hord, hlen⟩, hwords, hrest⟩

theorem State.Inv.withOrd {st : State} (h : st.Inv) {ord : List (Flagged Nibble)} {cw : Nibble} {cwv : Bool}
    (hlen : ord.length = st.N)
    (hcw : cwv = true →
      ord = (selectOrder st.cfg.patternLsb cw st.N).map (fun i => some (BitVec.ofNat 4 i))) :
    { st with ord := ord, cw := cw, cwv := cwv }.Inv := by
  obtain ⟨⟨hkey, -, hspl⟩, hsp, hecmd, herr, -⟩ := h
  exact ⟨⟨hkey, hlen, hspl⟩, hsp, hecmd, herr, hcw⟩

theorem State.Inv.setKey {st : State} (h : st.Inv) (i : Nat) (k : Word) : (st.setKey i k).Inv := by
  have ⟨⟨hkey, _, _⟩, _⟩ := h
  exact h.withKey (by simpa using hkey)

theorem State.Inv.setSp {st : State} (h : st.Inv) (i : Nat) {words : List Word} (hw : words.length ≤ 2) :
    (st.setSp i words).Inv := by
  have ⟨⟨_, _, hlen⟩, hsp, _⟩ := h
  refine h.withSp (by simpa using hlen) fun ws hws => ?_
  obtain hold | rfl := List.mem_or_eq_of_mem_set hws
  · exact hsp ws hold
  · exact hw

/-- `WRSP` never makes a sequence longer than two words (R207). -/
theorem writeSpWord_length_le {sp words : List Word} {j : BitVec 1} {d : Word}
    (h : writeSpWord sp j d = some words) : words.length ≤ 2 := by
  obtain ⟨-, h'⟩ | ⟨-, -, h'⟩ | ⟨-, w, -, -, h'⟩ := writeSpWord_cases sp j d
  · obtain rfl := Option.some.inj (h.symm.trans h'); simp
  · simp [h'] at h
  · obtain rfl := Option.some.inj (h.symm.trans h'); simp

/-! ## Commands and steps -/

/-- No command's change breaks the invariant. The scalar registers do not occur in it. -/
theorem Performs.inv {st u : State} {i : Instr} (hu : Performs st i u) (h : st.Inv) : u.Inv := by
  cases hu with
  | reads => exact h
  | clrerr => exact h.clearError
  | srst => exact State.inv_clearAll st
  | wrp | wrq | wrs | wrv | tdec | dec => exact h
  | wrkey _ d => exact h.setKey _ d
  | wrord =>
    have ⟨⟨_, hord, _⟩, _⟩ := h
    exact h.withOrd (by simpa using hord) (by simp)
  | wrsp _ hw => exact h.setSp _ (writeSpWord_length_le hw)
  | kstep => exact h.setKey _ _
  | keygen => exact h.withKey (by simp)
  | tenc => exact h.setSp _ (by simpa using Kind.arity_le_two _)
  | selord c => exact h.withOrd (by simpa using selectOrder_length _ c st.N_pos) fun _ => rfl
  | enc =>
    have ⟨⟨_, _, hlen⟩, hsp, _⟩ := h
    exact h.withSp (by simpa using hlen) (encodeBlock_sp_length_le hsp)

theorem exec_keeps_inv {i : Instr} {st t : State} (h : st.Inv) (hexec : exec i st = .next t) : t.Inv := by
  obtain ⟨e, rfl⟩ | ⟨u, w, hu, rfl⟩ := exec_cases hexec
  · exact h.raise e i.word
  · exact (hu.inv h).respond w

theorem execute_keeps_inv {c : Command} {st t : State} (h : st.Inv) (hexec : execute st c = .next t) :
    t.Inv := by
  obtain ⟨i, -, hi⟩ | ⟨-, -, hraise⟩ := execute_cases st c
  · exact exec_keeps_inv h (hi.symm.trans hexec)
  · obtain rfl := Host.Outcome.next.inj (hraise.symm.trans hexec)
    exact h.raise .opcode c.cmd

/-- Settles O58: each way a step ends (idle, a command, `rst`) keeps the invariant. -/
theorem stepKeepsInvariant : Obligations.StepKeepsInvariant := by
  intro st t h hstep
  obtain ⟨-, hidle⟩ | ⟨c, rest, -, hcmd⟩ | ⟨-, rest, -, hrst⟩ := step_cases st
  · obtain rfl := Host.Outcome.next.inj (hidle.symm.trans hstep)
    exact h
  · exact execute_keeps_inv (st := { st with input := rest }) h (hcmd.symm.trans hstep)
  · obtain rfl := Host.Outcome.next.inj (hrst.symm.trans hstep)
    exact State.inv_clearAll _

/-- Settles O7: by the definition of a step, and the decoder's answer for the word. -/
theorem stepExecutesNextCommand : Obligations.StepExecutesNextCommand := by
  intro st c rest hinput
  have hstep : step st = execute { st with input := rest } c := by simp [step, serve, hinput]
  refine ⟨hstep, fun i hi => hstep.trans (execute_of_decode hi _), fun hnone => hstep.trans ?_⟩
  obtain ⟨i, hi, -⟩ | ⟨-, -, hraise⟩ := execute_cases { st with input := rest } c
  · exact absurd hi (hnone i)
  · exact hraise

end Sys2Proof.Machine
end

section
/-! PROOFS. The macros of R111 as runs: what each of their commands leaves for the next. -/

namespace Sys2Proof.Machine

/-! ## The block commands on known operands -/

section
variable {st : State} {v : Word} {keys : List Word} {ord : List Nibble}

/-- The entry checks pass when everything is valid and the order is a permutation (R192). -/
theorem blockOperands_eq_ok (hv : st.v = some v) (hkeys : readFile st.N st.key = some keys)
    (hord : readFile st.N st.ord = some ord) (hperm : (ord.map BitVec.toNat).Perm (List.range st.N)) :
    st.blockOperands = .ok { v := v, keys := keys, order := ord.map BitVec.toNat } := by
  simp [State.blockOperands, hv, hkeys, hord, validPerm_of_perm hperm]

/-- `ENC` when its entry checks pass (R187). -/
theorem exec_enc_of_operands {b : BlockOperands} (hb : st.blockOperands = .ok b) :
    exec .enc st =
      .next
        { st with
          v := some (encodeBlock b.keys b.order b.v st.sp).1
          sp := (encodeBlock b.keys b.order b.v st.sp).2
          rsp := some { err := 0, rdata := 0 } } := by
  simp [exec, execEnc, hb, State.respond]

/-- `DEC` when its entry checks pass (R188). -/
theorem exec_dec_of_operands {b : BlockOperands} (hb : st.blockOperands = .ok b)
    (hsp : st.firstSpError = none) :
    exec .dec st =
      .next
        { st with
          v := some (decodeBlock b.keys b.order st.sp b.v)
          rsp := some { err := 0, rdata := 0 } } := by
  simp [exec, execDec, hb, hsp, State.respond]

/-- After a block is encoded over all slots, every slot passes the check of a decode (R190). -/
theorem firstSpError_encodeBlock {order : List Nat} (hlen : st.sp.length = st.N)
    (hperm : order.Perm (List.range st.N)) :
    State.firstSpError { st with sp := (encodeBlock keys order v st.sp).2 } = none := by
  have hmem : ∀ id, id ∈ order ↔ id < st.N := fun id => hperm.mem_iff.trans List.mem_range
  rw [firstSpError_eq_none]
  intro i hi
  have hsp := encodeBlock_sp keys order v st.sp (fun id hid => by rw [hlen]; exact (hmem id).1 hid) i
  rw [if_pos ((hmem i).2 hi)] at hsp
  rw [State.spAt, hsp, spcheck_tenc]

/-- `SELORD` leaves a readable order that is the selected one (R178). -/
theorem readFile_selectOrder (st : State) (c : Nibble) :
    readFile st.N ((selectOrder st.cfg.patternLsb c st.N).map (fun i => some (BitVec.ofNat 4 i))) =
      some ((selectOrder st.cfg.patternLsb c st.N).map (BitVec.ofNat 4)) := by
  rw [← readFile_map_some (n := st.N) (by simpa using selectOrder_length _ c st.N_pos), List.map_map]
  rfl

/-- When `ORD` is the selected order, the block commands find it and every key. -/
theorem blockOperands_of_selected {c : Nibble} (hv : st.v = some v) (hkeys : readFile st.N st.key = some keys)
    (hord : st.ord = (selectOrder st.cfg.patternLsb c st.N).map (fun i => some (BitVec.ofNat 4 i))) :
    st.blockOperands = .ok { v := v, keys := keys, order := selectOrder st.cfg.patternLsb c st.N } := by
  have horder := selectOrder_toNat st.cfg.patternLsb c st.N_pos st.N_le_sixteen
  rw [blockOperands_eq_ok hv hkeys (hord ▸ readFile_selectOrder st c)
    (horder.symm ▸ selectOrder_perm _ c st.N_pos), horder]

end

theorem execList_singleton (i : Instr) (st : State) : execList [i] st = exec i st := by
  rw [execList]
  cases exec i st <;> rfl

/-! ## `ENCBLK` and `DECBLK` -/

/-- The state `ENCBLK c, b` hands to its `ENC`: the block in `V` and the order of `c` in `ORD`. -/
def State.withBlock (st : State) (c : Nibble) (b : Word) : State :=
  { st with
    v := some b
    ord := (selectOrder st.cfg.patternLsb c st.N).map (fun i => some (BitVec.ofNat 4 i))
    cw := c
    cwv := true
    rsp := some { err := 0, rdata := 0 } }

/-- The block `b` encoded under the order of `c`: the final value and the side parameters (R189). -/
def State.encodedBlock (st : State) (keys : List Word) (c : Nibble) (b : Word) : Word × List (List Word) :=
  encodeBlock keys (selectOrder st.cfg.patternLsb c st.N) b st.sp

/-- The state `ENCBLK c, b` ends in. -/
def State.withEncodedBlock (st : State) (keys : List Word) (c : Nibble) (b : Word) : State :=
  { st.withBlock c b with v := some (st.encodedBlock keys c b).1, sp := (st.encodedBlock keys c b).2 }

section
variable {st : State} {keys : List Word}

/-- `ENCBLK` succeeds when all keys are valid: `WRV` and `SELORD` supply the rest (R111, R256). -/
theorem execList_encblk (hkeys : readFile st.N st.key = some keys) (c : Nibble) (b : Word) :
    execList (Macro.expand st.N (.encblk c b)) st = .next (st.withEncodedBlock keys c b) := by
  have hrun : execList (Macro.expand st.N (.encblk c b)) st = execList [.enc] (st.withBlock c b) := rfl
  have hoperands := blockOperands_of_selected (st := st.withBlock c b) (c := c) rfl hkeys rfl
  rw [hrun, execList_singleton, exec_enc_of_operands hoperands]
  rfl

/-- `DECBLK` of what `ENCBLK` left in `V` restores the block and changes nothing else (R190). -/
theorem execList_decblk_of_encblk (hkeys : readFile st.N st.key = some keys) (hlen : st.sp.length = st.N)
    (c : Nibble) (b : Word) (n : Nat) :
    execList (Macro.expand n (.decblk (st.encodedBlock keys c b).1)) (st.withEncodedBlock keys c b) =
      .next { st.withEncodedBlock keys c b with v := some b } := by
  have hperm : (selectOrder st.cfg.patternLsb c st.N).Perm (List.range st.N) := selectOrder_perm _ c st.N_pos
  have hrun : execList (Macro.expand n (.decblk (st.encodedBlock keys c b).1)) (st.withEncodedBlock keys c b) =
      execList [.dec] (st.withEncodedBlock keys c b) := rfl
  have hoperands := blockOperands_of_selected (st := st.withEncodedBlock keys c b) (c := c) rfl hkeys rfl
  have hchecks : (st.withEncodedBlock keys c b).firstSpError = none :=
    firstSpError_encodeBlock (st := st) hlen hperm
  have hback : decodeBlock keys (selectOrder st.cfg.patternLsb c st.N) (st.encodedBlock keys c b).2
      (st.encodedBlock keys c b).1 = b :=
    decodeBlock_encodeBlock (hperm.nodup_iff.2 List.nodup_range)
      fun id hid => hlen.symm ▸ List.mem_range.1 (hperm.mem_iff.1 hid)
  rw [hrun, execList_singleton, exec_dec_of_operands hoperands hchecks]
  exact congrArg (fun w => Host.Outcome.next { st.withEncodedBlock keys c b with v := some w }) hback

end

/-- Settles O49: with every key valid `ENCBLK` succeeds in every state, and decoding undoes encoding. -/
theorem blockMacrosRoundTrip : Obligations.BlockMacrosRoundTrip := by
  intro st c b ⟨_, _, hlen⟩ hvalid
  obtain ⟨keys, hkeys⟩ := exists_readFile hvalid
  exact ⟨st.withEncodedBlock keys c b, (st.encodedBlock keys c b).1, execList_encblk hkeys c b, rfl, rfl,
    _, execList_decblk_of_encblk hkeys hlen c b _, rfl, rfl⟩

/-! ## `GENKEYS` -/

/-- The state `GENKEYS p, q, s` ends in: the whole schedule in `KEY`, its final seed in `S` (R125). -/
def State.withSchedule (st : State) (p q s : Word) : State :=
  { st with
    p := some p
    q := some q
    s := some (generateKeys p q s st.N).2
    key := (generateKeys p q s st.N).1.map some
    rsp := some { err := 0, rdata := 0 } }

theorem execList_genkeys (st : State) (p q s : Word) :
    execList (Macro.expand st.N (.genkeys p q s)) st = .next (st.withSchedule p q s) := rfl

/-- `RDKEY i` answers a valid key (R212). -/
theorem exec_rdkey_of_keyAt {st : State} {i : Nibble} {k : Word} (hi : i.toNat < st.N)
    (hk : st.keyAt i.toNat = some k) :
    exec (.rdkey i) st = .next { st with rsp := some { err := 0, rdata := k } } := by
  simp [exec, execRdkey, hi, readFlagged, hk, State.respond]

/-- Settles O50: the three writes make `KEYGEN` succeed in every state, and key `i` of the schedule is what
`RDKEY i` finds. -/
theorem genkeysGivesSchedule : Obligations.GenkeysGivesSchedule := by
  intro st p q s
  refine ⟨st.withSchedule p q s, execList_genkeys st p q s, rfl, rfl, rfl, fun i k hi hk => ?_⟩
  refine exec_rdkey_of_keyAt hi ?_
  simp [State.keyAt, readEntry, State.withSchedule, hk]

end Sys2Proof.Machine
end

section
/-! PROOFS. The two views and the reset state: the fields of STATUS and SLOT, and what RDST and RDSLOT answer. -/

namespace Sys2Proof.Machine

/-! ## Placed fields -/

@[simp] theorem field_getElem {w : Nat} (x : BitVec w) (lo k : Nat) (hk : k < 64) :
    (field x lo)[k] = (decide (lo ≤ k) && x.getLsbD (k - lo)) := by
  simpa [hk] using field_getLsbD x lo k

@[simp] theorem flagBit_getElem_zero (b : Bool) : (flagBit b)[0] = b := by cases b <;> rfl

@[simp] theorem flagBit_false : flagBit false = 0#1 := rfl

/-- A field is read back from where it was placed. -/
theorem field_extractLsb'_same {w lo : Nat} (x : BitVec w) (h : lo + w ≤ 64) :
    (field x lo).extractLsb' lo w = x := by
  ext k hk
  have hk64 : lo + k < 64 := by omega
  simp [hk, hk64]

/-- A field leaves the bits below and above it 0. -/
theorem field_extractLsb'_other {w lo start len : Nat} (x : BitVec w) (h : start + len ≤ lo ∨ lo + w ≤ start) :
    (field x lo).extractLsb' start len = 0#len := by
  ext k hk
  obtain hbelow | habove := h
  · have hlo : ¬ lo ≤ start + k := by omega
    simp [hlo]
  · have hx : x.getLsbD (start + k - lo) = false := BitVec.getLsbD_of_ge _ _ (by omega)
    simp [hx]

@[simp] theorem field_zero (w lo : Nat) : field 0#w lo = 0 := by simp [field]

/-! ## `STATUS` (R41, R231) -/

theorem State.kall_iff (st : State) : st.kall = true ↔ ∀ i, i < st.N → (st.keyAt i).isSome = true := by
  simp [State.kall, State.keyv]

theorem State.oall_iff (st : State) : st.oall = true ↔ ∀ p, p < st.N → (st.ordAt p).isSome = true := by
  simp [State.oall, State.ordv]

/-- `N` fits the five bits it has in `STATUS`. -/
theorem State.toNat_ofNat_N (st : State) : (BitVec.ofNat 5 st.N).toNat = st.N := by
  have := st.N_le_sixteen
  rw [BitVec.toNat_ofNat]
  omega

/-- The one-bit fields of the status word. -/
theorem State.status_flags (st : State) :
    st.status.getLsbD 4 = st.pv ∧ st.status.getLsbD 5 = st.qv ∧ st.status.getLsbD 6 = st.sv
      ∧ st.status.getLsbD 7 = st.vv ∧ st.status.getLsbD 8 = st.kall ∧ st.status.getLsbD 9 = st.oall
      ∧ st.status.getLsbD 10 = st.cwv := by
  simp [State.status]

/-- The wider fields of the status word. -/
theorem State.status_fields (st : State) :
    st.status.extractLsb' 0 4 = st.err ∧ st.status.extractLsb' 16 4 = st.cwShown
      ∧ st.status.extractLsb' 24 5 = BitVec.ofNat 5 st.N ∧ st.status.extractLsb' 32 16 = st.ecmd := by
  simp [State.status, BitVec.extractLsb'_or, field_extractLsb'_same, field_extractLsb'_other]

/-- The bits of the status word that are in no field. -/
theorem State.status_gaps (st : State) :
    st.status.extractLsb' 11 5 = 0#5 ∧ st.status.extractLsb' 20 4 = 0#4
      ∧ st.status.extractLsb' 29 3 = 0#3 ∧ st.status.extractLsb' 48 16 = 0#16 := by
  simp [State.status, BitVec.extractLsb'_or, field_extractLsb'_other]

/-- Settles O11: `RDST` answers the status word, whose fields lie apart. -/
theorem statusWordFields : Obligations.StatusWordFields := by
  intro st d
  obtain ⟨hpv, hqv, hsv, hvv, hkall, hoall, hcwv⟩ := st.status_flags
  obtain ⟨herr, hcw, hN, hecmd⟩ := st.status_fields
  obtain ⟨h11, h20, h29, h48⟩ := st.status_gaps
  exact ⟨decode_of_row (m := .rdst) d (by decide) (by decide), st.status, rfl, herr, hpv, hqv, hsv, hvv,
    by rw [hkall, st.kall_iff], by rw [hoall, st.oall_iff], hcwv, h11, hcw, h20,
    by rw [hN, st.toNat_ofNat_N], h29, hecmd, h48⟩

/-! ## `SLOT(i)` (R42, R234) -/

/-- The word of a command decodes to its row with its fields, whatever `WDATA` is (R96). -/
theorem decode_word (i : Instr) (d : Word) :
    decode { cmd := i.word, wdata := d } = .ok (i.mnemonic.toInstr i.idxField i.selField d) := by
  have h := decode_of_row d ((congrArg _ (op_word i)).trans (ofOpcode_opcode _)) (word_and_mask i)
  rwa [idx_word, sel_word] at h

/-- A word of format I: `OP`, `IDX` and four zeros (R94). -/
theorem append_idx_eq_or (op : BitVec 8) (i : Nibble) :
    op ++ i ++ 0#4 = op.setWidth 16 <<< 8 ||| i.setWidth 16 <<< 4 ||| (0#1).setWidth 16 := by
  ext k hk
  simp only [BitVec.getElem_append, BitVec.getElem_or, BitVec.getElem_shiftLeft, BitVec.getElem_setWidth]
  grind

theorem kindOf_number (i : Nat) : (kindOf i).number.toNat = i % 4 := by
  have h : i % 4 < 4 := Nat.mod_lt i (by decide)
  unfold kindOf
  interval_cases i % 4 <;> rfl

theorem arityOf_eq (i : Nat) : arityOf i = if i % 4 = 3 then 2 else 1 := by
  have h : i % 4 < 4 := Nat.mod_lt i (by decide)
  unfold arityOf kindOf
  interval_cases i % 4 <;> rfl

/-- The fields of the slot descriptor, and its bits in no field. -/
theorem State.slotWord_fields (st : State) (i : Nat) :
    (st.slotWord i).extractLsb' 0 2 = (kindOf i).number
      ∧ (st.slotWord i).extractLsb' 2 2 = BitVec.ofNat 2 (arityOf i)
      ∧ (st.slotWord i).extractLsb' 4 2 = st.splen i ∧ (st.slotWord i).getLsbD 6 = st.keyv i
      ∧ (st.slotWord i).extractLsb' 7 57 = 0#57 := by
  simp [State.slotWord, BitVec.extractLsb'_or, field_extractLsb'_same, field_extractLsb'_other]

/-- Settles O13: `RDSLOT` answers the slot descriptor behind its index test. -/
theorem slotDescriptorFields : Obligations.SlotDescriptorFields := by
  intro st i d
  have hword : 0x04#8 ++ i ++ 0#4 = (Instr.rdslot i).word := append_idx_eq_or 0x04#8 i
  rw [hword]
  refine ⟨decode_word (.rdslot i) d, fun hi => ?_, fun hi => ?_⟩
  · obtain ⟨hkind, harity, hsplen, hkeyv, hgap⟩ := st.slotWord_fields i.toNat
    refine ⟨st.slotWord i.toNat, if_pos (by simpa using hi), ?_, ?_, hsplen, hkeyv, hgap⟩
    · rw [hkind, kindOf_number]
    · rw [harity, arityOf_eq]
      split <;> rfl
  · exact if_neg (by simpa using hi)

/-! ## Reset (R44, R281) -/

@[simp] theorem readEntry_replicate_none {α : Type} (n i : Nat) :
    readEntry (List.replicate n (none : Flagged α)) i = none := by
  simp [readEntry]

/-- A CORE has at least one slot, so after reset neither `KALL` nor `OALL` is set. -/
theorem State.kall_oall_resetOf (cfg : Config) :
    (State.resetOf cfg).kall = false ∧ (State.resetOf cfg).oall = false := by
  have hpos := (State.resetOf cfg).N_pos
  constructor
  · refine Bool.eq_false_iff.2 fun h => ?_
    simpa [State.keyAt, State.resetOf] using (State.kall_iff _).1 h 0 hpos
  · refine Bool.eq_false_iff.2 fun h => ?_
    simpa [State.ordAt, State.resetOf] using (State.oall_iff _).1 h 0 hpos

/-- Only `N` shows in the status word after reset. -/
theorem State.status_resetOf (cfg : Config) :
    (State.resetOf cfg).status = BitVec.ofNat 64 (cfg.N * 2 ^ 24) := by
  obtain ⟨hkall, hoall⟩ := State.kall_oall_resetOf cfg
  have hN : field (BitVec.ofNat 5 cfg.N) 24 = BitVec.ofNat 64 (cfg.N * 2 ^ 24) := by
    have hle : cfg.N ≤ 16 := cfg.lastSlot.isLt
    apply BitVec.eq_of_toNat_eq
    simp [field, Nat.shiftLeft_eq]
    omega
  rw [← hN]
  simp only [State.status, hkall, hoall]
  simp [State.resetOf, State.pv, State.qv, State.sv, State.vv, State.cwShown, State.N]

/-- Settles O9: the reset values by definition, and `RDST`'s answer from the status word. -/
theorem resetState : Obligations.ResetState := by
  refine ⟨fun cfg => ⟨rfl, rfl, rfl, rfl, rfl, fun i => ?_, ?_, rfl, rfl, rfl, rfl, ?_⟩, rfl, rfl⟩
  · simp [State.resetOf, State.keyAt, State.ordAt, State.spAt]
  · exact ⟨List.length_replicate, List.length_replicate, List.length_replicate⟩
  · rw [← State.status_resetOf]
    rfl

/-- Settles O59: a reset state is a cleared state. -/
theorem resetHasInvariant : Obligations.ResetHasInvariant :=
  ⟨State.inv_clearAll State.reset, fun cfg => State.inv_clearAll (State.resetOf cfg)⟩

end Sys2Proof.Machine
end

section
/-! PROOFS. Which commands change which register (R45), and what never goes away (R46). -/

namespace Sys2Proof.Machine

/-! ## The write matrix: one lemma per register (R45) -/

section
variable {st u : State} {i : Instr}

theorem Performs.cfg_eq (hu : Performs st i u) : u.cfg = st.cfg := by cases hu <;> rfl

theorem Performs.input_eq (hu : Performs st i u) : u.input = st.input := by cases hu <;> rfl

theorem Performs.p_eq (hu : Performs st i u) (h : i.mnemonic ∉ [.wrp, .srst]) : u.p = st.p := by
  cases hu with
  | wrp | srst => simp [Instr.mnemonic] at h
  | _ => rfl

theorem Performs.q_eq (hu : Performs st i u) (h : i.mnemonic ∉ [.wrq, .srst]) : u.q = st.q := by
  cases hu with
  | wrq | srst => simp [Instr.mnemonic] at h
  | _ => rfl

theorem Performs.s_eq (hu : Performs st i u) (h : i.mnemonic ∉ [.wrs, .kstep, .keygen, .srst]) :
    u.s = st.s := by
  cases hu with
  | wrs | kstep | keygen | srst => simp [Instr.mnemonic] at h
  | _ => rfl

theorem Performs.v_eq (hu : Performs st i u) (h : i.mnemonic ∉ [.wrv, .tenc, .tdec, .enc, .dec, .srst]) :
    u.v = st.v := by
  cases hu with
  | wrv | tenc | tdec | enc | dec | srst => simp [Instr.mnemonic] at h
  | _ => rfl

theorem Performs.key_eq (hu : Performs st i u) (h : i.mnemonic ∉ [.wrkey, .kstep, .keygen, .srst]) :
    u.key = st.key := by
  cases hu with
  | wrkey | kstep | keygen | srst => simp [Instr.mnemonic] at h
  | _ => rfl

theorem Performs.ord_eq (hu : Performs st i u) (h : i.mnemonic ∉ [.wrord, .selord, .srst]) :
    u.ord = st.ord := by
  cases hu with
  | wrord | selord | srst => simp [Instr.mnemonic] at h
  | _ => rfl

theorem Performs.sp_eq (hu : Performs st i u) (h : i.mnemonic ∉ [.wrsp, .tenc, .enc, .srst]) :
    u.sp = st.sp := by
  cases hu with
  | wrsp | tenc | enc | srst => simp [Instr.mnemonic] at h
  | _ => rfl

theorem Performs.cw_eq (hu : Performs st i u) (h : i.mnemonic ∉ [.selord, .srst]) : u.cw = st.cw := by
  cases hu with
  | selord | srst => simp [Instr.mnemonic] at h
  | _ => rfl

theorem Performs.cwv_eq (hu : Performs st i u) (h : i.mnemonic ∉ [.wrord, .selord, .srst]) :
    u.cwv = st.cwv := by
  cases hu with
  | wrord | selord | srst => simp [Instr.mnemonic] at h
  | _ => rfl

theorem Performs.err_eq (hu : Performs st i u) (h : i.mnemonic ∉ [.clrerr, .srst]) : u.err = st.err := by
  cases hu with
  | clrerr | srst => simp [Instr.mnemonic] at h
  | _ => rfl

theorem Performs.ecmd_eq (hu : Performs st i u) (h : i.mnemonic ∉ [.clrerr, .srst]) :
    u.ecmd = st.ecmd := by
  cases hu with
  | clrerr | srst => simp [Instr.mnemonic] at h
  | _ => rfl

end

/-! ## The response (R101, R262) -/

theorem State.accepted_respond (st : State) (w : Word) : (st.respond w).Accepted := rfl

theorem State.not_accepted_raise (st : State) (e : ErrCode) (cmd : CmdWord) : ¬ (st.raise e cmd).Accepted :=
  fun h => e.code_ne_zero (Option.some.inj h)

/-- Error entry leaves a record: the one that stood, or its own (R262). -/
theorem State.raise_err_ne_zero (st : State) (e : ErrCode) (cmd : CmdWord) : (st.raise e cmd).err ≠ 0 := by
  rw [State.raise_err]
  split
  · exact e.code_ne_zero
  · assumption

/-- Settles O54: a refused command writes its error record only, and a performed one what its row of the
matrix lists. -/
theorem writeMatrix : Obligations.WriteMatrix := by
  intro i st t hexec
  obtain ⟨e, rfl⟩ | ⟨u, w, hu, rfl⟩ := exec_cases hexec
  · exact ⟨rfl, rfl, fun _ => rfl, fun _ => rfl, fun _ => rfl, fun _ => rfl, fun _ => rfl, fun _ => rfl,
      fun _ => rfl, fun _ => rfl, fun _ => rfl, fun _ hacc => absurd hacc (st.not_accepted_raise e i.word)⟩
  · exact ⟨hu.cfg_eq, hu.input_eq, hu.p_eq, hu.q_eq, hu.s_eq, hu.v_eq, hu.key_eq, hu.ord_eq, hu.sp_eq,
      hu.cw_eq, hu.cwv_eq, fun h _ => ⟨hu.err_eq h, hu.ecmd_eq h⟩⟩

/-! ## Flags stay set (R46 e) -/

/-- What holds of an entry still holds of it after a write, when it holds of every value written. -/
theorem getD_set_keeps {α : Type} {P : α → Prop} {xs : List α} {i j : Nat} {x d : α} (hx : P x)
    (h : P (xs.getD j d)) : P ((xs.set i x).getD j d) := by
  by_cases hij : i = j
  · subst hij
    by_cases hi : i < xs.length
    · simpa [hi] using hx
    · simpa [hi] using h
  · simpa [hij] using h

/-- A write to a register file makes its entry valid and keeps the others. -/
theorem readEntry_set_isSome {α : Type} {file : List (Flagged α)} {i j : Nat} (a : α)
    (h : (readEntry file j).isSome = true) : (readEntry (file.set i (some a)) j).isSome = true :=
  getD_set_keeps (P := fun e : Flagged α => e.isSome = true) rfl h

/-- A command that writes a whole file makes every entry of it valid. -/
theorem readEntry_isSome_of_forall {α : Type} {file file' : List (Flagged α)} {j : Nat}
    (hlen : file'.length = file.length) (hall : ∀ e ∈ file', e.isSome = true)
    (h : (readEntry file j).isSome = true) : (readEntry file' j).isSome = true := by
  have hj : j < file'.length := by
    by_contra hge
    simp [readEntry_of_le (file := file) (by omega : file.length ≤ j)] at h
  simpa [readEntry, hj] using hall _ (List.getElem_mem hj)

theorem tenc_snd_ne_nil (kind : Kind) (v k : Word) : (tenc kind v k).2 ≠ [] := by
  cases kind <;> exact List.cons_ne_nil _ _

theorem writeSpWord_ne_nil {sp words : List Word} {j : BitVec 1} {d : Word}
    (h : writeSpWord sp j d = some words) : words ≠ [] := by
  obtain ⟨-, h'⟩ | ⟨-, -, h'⟩ | ⟨-, w, -, -, h'⟩ := writeSpWord_cases sp j d
  · obtain rfl := Option.some.inj (h.symm.trans h'); simp
  · simp [h'] at h
  · obtain rfl := Option.some.inj (h.symm.trans h'); simp

/-- Encoding a block empties no side-parameter sequence. -/
theorem encodeBlock_sp_ne_nil {keys : List Word} {order : List Nat} {w : Word} {sps : List (List Word)}
    {j : Nat} (h : sps.getD j [] ≠ []) : (encodeBlock keys order w sps).2.getD j [] ≠ [] := by
  induction order generalizing w sps with
  | nil => exact h
  | cons id order ih =>
    rw [encodeBlock_cons]
    exact ih (getD_set_keeps (P := (· ≠ [])) (tenc_snd_ne_nil _ _ _) h)

section
variable {st u : State} {i : Instr}

theorem Performs.s_stays (hu : Performs st i u) (hi : i ≠ .srst) (h : st.s.isSome = true) :
    u.s.isSome = true := by
  cases hu with
  | srst => exact absurd rfl hi
  | wrs | kstep | keygen => rfl
  | _ => exact h

theorem Performs.v_stays (hu : Performs st i u) (hi : i ≠ .srst) (h : st.v.isSome = true) :
    u.v.isSome = true := by
  cases hu with
  | srst => exact absurd rfl hi
  | wrv | tenc | tdec | enc | dec => rfl
  | _ => exact h

theorem Performs.keyAt_stays (hu : Performs st i u) (hi : i ≠ .srst) (hlen : st.key.length = st.N) {k : Nat}
    (h : (st.keyAt k).isSome = true) : (u.keyAt k).isSome = true := by
  cases hu with
  | srst => exact absurd rfl hi
  | wrkey | kstep => exact readEntry_set_isSome _ h
  | keygen => exact readEntry_isSome_of_forall (by simp [hlen]) (by simp) h
  | _ => exact h

theorem Performs.ordAt_stays (hu : Performs st i u) (hi : i ≠ .srst) (hlen : st.ord.length = st.N) {p : Nat}
    (h : (st.ordAt p).isSome = true) : (u.ordAt p).isSome = true := by
  cases hu with
  | srst => exact absurd rfl hi
  | wrord => exact readEntry_set_isSome _ h
  | selord c =>
    have hsel : (selectOrder st.cfg.patternLsb c st.N).length = st.N := selectOrder_length _ c st.N_pos
    exact readEntry_isSome_of_forall (by simp [hlen, hsel]) (by simp) h
  | _ => exact h

theorem Performs.spAt_stays (hu : Performs st i u) (hi : i ≠ .srst) {k : Nat} (h : st.spAt k ≠ []) :
    u.spAt k ≠ [] := by
  cases hu with
  | srst => exact absurd rfl hi
  | wrsp _ hw => exact getD_set_keeps (P := (· ≠ [])) (writeSpWord_ne_nil hw) h
  | tenc => exact getD_set_keeps (P := (· ≠ [])) (tenc_snd_ne_nil _ _ _) h
  | enc => exact encodeBlock_sp_ne_nil h
  | _ => exact h

/-! ## `P` and `Q` are written by the host only (R46 f) -/

theorem Performs.p_cases (hu : Performs st i u) (hi : i ≠ .srst) :
    u.p = st.p ∨ ∃ w, i = .wrp w ∧ u.p = some w := by
  cases hu with
  | srst => exact absurd rfl hi
  | wrp d => exact .inr ⟨d, rfl, rfl⟩
  | _ => exact .inl rfl

theorem Performs.q_cases (hu : Performs st i u) (hi : i ≠ .srst) :
    u.q = st.q ∨ ∃ w, i = .wrq w ∧ u.q = some w := by
  cases hu with
  | srst => exact absurd rfl hi
  | wrq d => exact .inr ⟨d, rfl, rfl⟩
  | _ => exact .inl rfl

end

/-- A register that keeps its value, or takes the one a command names, stays valid. -/
theorem isSome_of_eq_or {α : Type} {r r' : Flagged α} {C : α → Prop}
    (h : r' = r ∨ ∃ w, C w ∧ r' = some w) (hr : r.isSome = true) : r'.isSome = true := by
  obtain rfl | ⟨w, -, rfl⟩ := h
  · exact hr
  · rfl

/-- A register that keeps its value, or takes the one a command names, holds a new value only by that command. -/
theorem named_of_eq_or {α : Type} {r r' : Flagged α} {C : α → Prop} {w : α}
    (h : r' = r ∨ ∃ w, C w ∧ r' = some w) (hw : r' = some w) (hnew : r ≠ some w) : C w := by
  obtain rfl | ⟨w', hC, rfl⟩ := h
  · exact absurd hw hnew
  · exact Option.some.inj hw ▸ hC

/-- Settles O55: no performed change but `SRST` takes a value away, and a refused command changes no register. -/
theorem flagsStaySet : Obligations.FlagsStaySet := by
  intro i st t ⟨hkey, hord, _⟩ hexec hi
  obtain ⟨e, rfl⟩ | ⟨u, w, hu, rfl⟩ := exec_cases hexec
  · exact ⟨id, id, id, id, fun _ => id, fun _ => id, fun _ => id, fun _ hw hnew => absurd hw hnew,
      fun _ hw hnew => absurd hw hnew⟩
  · exact ⟨isSome_of_eq_or (hu.p_cases hi), isSome_of_eq_or (hu.q_cases hi), hu.s_stays hi, hu.v_stays hi,
      fun _ => hu.keyAt_stays hi hkey, fun _ => hu.ordAt_stays hi hord, fun _ => hu.spAt_stays hi,
      fun _ => named_of_eq_or (hu.p_cases hi), fun _ => named_of_eq_or (hu.q_cases hi)⟩

/-! ## The error record over a run (R40, R265) -/

/-- A command that does not clear the record is neither of the two that do (R40). -/
theorem not_mem_of_clearsRecord {c : Command} {i : Instr} (hi : decode c = .ok i)
    (hc : clearsRecord c = false) : i.mnemonic ∉ [.clrerr, .srst] := by
  cases i with
  | clrerr | srst => simp [clearsRecord, hi] at hc
  | _ => simp [Instr.mnemonic]

/-- One command that does not clear the record leaves `ERR = 0` exactly when there was no record and the
command was not refused. -/
theorem execute_err_eq_zero_iff {c : Command} (hc : clearsRecord c = false) (st : State) :
    ∃ t, execute st c = .next t ∧ (t.err = 0 ↔ st.err = 0 ∧ t.Accepted) := by
  have refused : ∀ e cmd, (st.raise e cmd).err = 0 ↔ st.err = 0 ∧ (st.raise e cmd).Accepted := fun e cmd =>
    ⟨fun h => absurd h (st.raise_err_ne_zero e cmd), fun h => absurd h.2 (st.not_accepted_raise e cmd)⟩
  obtain ⟨i, hi, hexec⟩ | ⟨-, -, hraise⟩ := execute_cases st c
  · obtain ⟨e, he⟩ | ⟨u, w, hu, hw⟩ := refuses_or_completes st i
    · exact ⟨_, hexec.trans he, refused e i.word⟩
    · refine ⟨_, hexec.trans hw, ?_⟩
      rw [State.respond_err, hu.err_eq (not_mem_of_clearsRecord hi hc)]
      exact (and_iff_left (u.accepted_respond w)).symm
  · exact ⟨_, hraise, refused .opcode c.cmd⟩

/-- Over a run that never clears the record: `ERR = 0` at the end exactly when there was no record at the start
and no command was refused. -/
theorem executions_err_eq_zero_iff (cs : List Command) (hcs : ∀ c ∈ cs, clearsRecord c = false) (st : State) :
    ((executions st cs).getLastD st).err = 0 ↔ st.err = 0 ∧ ∀ t ∈ executions st cs, t.Accepted := by
  induction cs generalizing st with
  | nil => simp [executions]
  | cons c rest ih =>
    obtain ⟨hc, hrest⟩ := List.forall_mem_cons.1 hcs
    obtain ⟨t, ht, hstep⟩ := execute_err_eq_zero_iff hc st
    rw [executions_cons_of_next ht, List.getLastD_cons, ih hrest t, hstep, List.forall_mem_cons, and_assoc]

/-- Settles O57: the run's equivalence, from a state without a record. -/
theorem errZeroMeansNothingRefused : Obligations.ErrZeroMeansNothingRefused := by
  intro st cs herr hcs
  rw [executions_err_eq_zero_iff cs hcs st]
  exact (and_iff_right herr).symm

end Sys2Proof.Machine
end

section
/-! PROOFS. The register writes: what an entry of a file holds after a write to it or to another entry, and why
a write issued twice leaves what one leaves (R74). -/

namespace Sys2Proof.Machine

/-! ## An entry of a file after a write -/

theorem getD_set_of_lt {α : Type} {xs : List α} {i : Nat} (hi : i < xs.length) (x d : α) (k : Nat) :
    (xs.set i x).getD k d = if k = i then x else xs.getD k d := by
  split
  · next hk => subst hk; simp [hi]
  · next hk => simp [Ne.symm hk]

section
variable {st : State} {i : Nat}

theorem State.keyAt_setKey (hi : i < st.key.length) (w : Word) (k : Nat) :
    (st.setKey i w).keyAt k = if k = i then some w else st.keyAt k :=
  getD_set_of_lt hi _ _ k

theorem State.ordAt_setOrd (hi : i < st.ord.length) (o : Nibble) (k : Nat) :
    (st.setOrd i o).ordAt k = if k = i then some o else st.ordAt k :=
  getD_set_of_lt hi _ _ k

theorem State.spAt_setSp (hi : i < st.sp.length) (words : List Word) (k : Nat) :
    (st.setSp i words).spAt k = if k = i then words else st.spAt k :=
  getD_set_of_lt hi _ _ k

end

/-- A second side parameter is written behind the first, whatever stood there (R207). -/
theorem writeSpWord_one {sp words : List Word} {d : Word} (h : writeSpWord sp 1 d = some words) :
    words = sp.take 1 ++ [d] := by
  cases sp with
  | nil => cases h
  | cons first rest => exact (Option.some.inj h).symm

/-! ## What an accepted file write leaves in its file (R205 to R207) -/

/-- A command that was accepted performed its change. -/
theorem performs_of_accepted {i : Instr} {st t : State} (h : exec i st = .next t) (hacc : t.Accepted) :
    ∃ u w, Performs st i u ∧ t = u.respond w := by
  obtain ⟨e, rfl⟩ | hperforms := exec_cases h
  · exact absurd hacc (st.not_accepted_raise e i.word)
  · exact hperforms

section
variable {st u : State} {i : Nibble} {d : Word}

theorem Performs.wrkey_keyAt (hu : Performs st (.wrkey i d) u) (hlen : st.key.length = st.N) (k : Nat) :
    u.keyAt k = if k = i.toNat then some d else st.keyAt k := by
  cases hu with
  | reads h => exact absurd h Bool.false_ne_true
  | wrkey hi => exact State.keyAt_setKey (hlen ▸ hi) d k

theorem Performs.wrord_ordAt (hu : Performs st (.wrord i d) u) (hlen : st.ord.length = st.N) (k : Nat) :
    u.ordAt k = if k = i.toNat then some (BitVec.ofNat 4 d.toNat) else st.ordAt k := by
  cases hu with
  | reads h => exact absurd h Bool.false_ne_true
  | wrord hi _ => exact lowNibble_eq d ▸ State.ordAt_setOrd (hlen ▸ hi) (lowNibble d) k

theorem Performs.wrsp_spAt {j : BitVec 1} (hu : Performs st (.wrsp i j d) u) (hlen : st.sp.length = st.N) :
    ∃ words, writeSpWord (st.spAt i.toNat) j d = some words
      ∧ ∀ k, u.spAt k = if k = i.toNat then words else st.spAt k := by
  cases hu with
  | reads h => exact absurd h Bool.false_ne_true
  | wrsp hi hw => exact ⟨_, hw, State.spAt_setSp (hlen ▸ hi) _⟩

end

/-- Settles O20: an accepted write performed its change, which sets entry `i` of a file that has it. -/
theorem fileWritesReadBack : Obligations.FileWritesReadBack := by
  intro st t i d ⟨hkey, hord, hsp⟩ hacc
  refine ⟨fun h => ?_, fun h => ?_, fun h => ?_, fun h => ?_⟩ <;>
    obtain ⟨u, w, hu, rfl⟩ := performs_of_accepted h hacc
  · exact hu.wrkey_keyAt hkey
  · exact hu.wrord_ordAt hord
  · obtain ⟨words, hw, hread⟩ := hu.wrsp_spAt hsp
    obtain rfl : [d] = words := Option.some.inj hw
    exact hread
  · obtain ⟨words, hw, hread⟩ := hu.wrsp_spAt hsp
    intro k
    refine (hread k).trans ?_
    split
    · next hk => rw [hk, writeSpWord_one hw]
    · rfl

/-! ## A write issued twice (R74) -/

/-- Executing a command again in the state it left gives that state. -/
def RepeatsAt (i : Instr) (st : State) : Prop := ∀ t, exec i st = .next t → exec i t = .next t

/-- A command repeats when the change it makes under a condition keeps the condition and made twice is the
change made once. -/
theorem repeatsAt_of_idempotent {i : Instr} {st : State} (C : State → Prop) (f : State → State)
    (hexec : ∀ s, C s → exec i s = .next (f s)) (hst : C st) (hkeeps : C (f st)) (hf : f (f st) = f st) :
    RepeatsAt i st := by
  intro t h
  obtain rfl : f st = t := Host.Outcome.next.inj ((hexec st hst).symm.trans h)
  rw [hexec _ hkeeps, hf]

/-- The first error is kept (R262), so an error entry made twice is the error entry made once. -/
theorem State.raise_raise (st : State) (e : ErrCode) (cmd : CmdWord) :
    (st.raise e cmd).raise e cmd = st.raise e cmd := by
  have hset : (st.raise e cmd).err ≠ 0 := st.raise_err_ne_zero e cmd
  rw [State.raise, if_neg hset, if_neg hset]
  rfl

/-- A refusal repeats when its cause is one that an error entry leaves standing. -/
theorem repeatsAt_of_refusal {i : Instr} {st : State} (C : State → Prop) (e : ErrCode)
    (hexec : ∀ s, C s → exec i s = fail s e i) (hst : C st) (hkeeps : C (st.raise e i.word)) : RepeatsAt i st :=
  repeatsAt_of_idempotent C (fun s => s.raise e i.word) hexec hst hkeeps (st.raise_raise e i.word)

/-- A command that tests its index (R253) repeats where the test fails, and where it passes if what stands
behind the test does. -/
theorem repeatsAt_of_indexTest {i : Instr} {st : State} {idx : Nibble} (r : State → Result)
    (h : ∀ s, exec i s = if s.hasIndex idx then r s else fail s .index i)
    (passed : idx.toNat < st.N → (∀ s, idx.toNat < s.N → exec i s = r s) → RepeatsAt i st) :
    RepeatsAt i st := by
  by_cases hi : idx.toNat < st.N
  · exact passed hi fun s hs => by rw [h, if_pos (by simpa using hs)]
  · exact repeatsAt_of_refusal (fun s => ¬ idx.toNat < s.N) .index
      (fun s hs => by rw [h, if_neg (by simpa using hs)]) hi hi

theorem wrkey_repeatsAt (i : Nibble) (d : Word) (st : State) : RepeatsAt (.wrkey i d) st :=
  repeatsAt_of_indexTest (fun s => done (s.setKey i.toNat d)) (fun _ => rfl) fun hi hexec =>
    repeatsAt_of_idempotent _ (fun s => (s.setKey i.toNat d).respond 0) hexec hi hi
      (by simp [State.setKey, State.respond])

theorem wrord_repeatsAt (p : Nibble) (d : Word) (st : State) : RepeatsAt (.wrord p d) st := by
  refine repeatsAt_of_indexTest _ (fun _ => rfl) fun hp hexec => ?_
  by_cases hd : fitsNibble d = true
  · exact repeatsAt_of_idempotent _
      (fun s => State.respond { s.setOrd p.toNat (lowNibble d) with cwv := false } 0)
      (fun s hs => (hexec s hs).trans (if_pos hd)) hp hp (by simp [State.setOrd, State.respond])
  · exact repeatsAt_of_refusal _ .operand (fun s hs => (hexec s hs).trans (if_neg hd)) hp hp

/-- Writing a side parameter to the sequence it left gives that sequence (R207). -/
theorem writeSpWord_again {sp words : List Word} {j : BitVec 1} {d : Word}
    (h : writeSpWord sp j d = some words) : writeSpWord words j d = some words := by
  obtain ⟨rfl, h'⟩ | ⟨-, -, h'⟩ | ⟨hj, w, -, -, h'⟩ := writeSpWord_cases sp j d
  · obtain rfl := Option.some.inj (h'.symm.trans h); rfl
  · simp [h'] at h
  · obtain rfl := Option.some.inj (h'.symm.trans h); exact if_neg hj

theorem wrsp_repeatsAt (i : Nibble) (j : BitVec 1) (d : Word) (st : State) : RepeatsAt (.wrsp i j d) st := by
  refine repeatsAt_of_indexTest _ (fun _ => rfl) fun hi hexec => ?_
  cases hw : writeSpWord (st.spAt i.toNat) j d with
  | none =>
    exact repeatsAt_of_refusal (fun s => i.toNat < s.N ∧ writeSpWord (s.spAt i.toNat) j d = none) .spArity
      (fun s hs => (hexec s hs.1).trans (by simp [hs.2])) ⟨hi, hw⟩ ⟨hi, hw⟩
  | some words =>
    have hagain : writeSpWord ((st.setSp i.toNat words).spAt i.toNat) j d = some words :=
      getD_set_keeps (P := fun sp => writeSpWord sp j d = some words) (writeSpWord_again hw) hw
    exact repeatsAt_of_idempotent (fun s => i.toNat < s.N ∧ writeSpWord (s.spAt i.toNat) j d = some words)
      (fun s => (s.setSp i.toNat words).respond 0) (fun s hs => (hexec s hs.1).trans (by simp [hs.2]))
      ⟨hi, hw⟩ ⟨hi, hagain⟩ (by simp [State.setSp, State.respond])

/-- Settles O21: the scalar writes pass no check; a file write repeats where it is refused and where it is
performed. -/
theorem repeatedWriteChangesNothing : Obligations.RepeatedWriteChangesNothing := by
  intro i st t hmem h
  cases i with
  | wrp | wrq | wrs | wrv => cases h; rfl
  | wrkey i d => exact wrkey_repeatsAt i d st t h
  | wrord p d => exact wrord_repeatsAt p d st t h
  | wrsp i j d => exact wrsp_repeatsAt i j d st t h
  | _ => simp [Instr.mnemonic] at hmem

end Sys2Proof.Machine
end

section
/-! PROOFS. The decoder: a command word as its four fields (R93), what the fixed bits of a format say of them
(R94), and the words a row of the opcode map decodes (R96, R98, R99). -/

namespace Sys2Proof

/-! ## The fields of a command word (R93) -/

/-- A command word is its `OP`, its `IDX`, the reserved bits 3:1 and its `SEL`. -/
theorem fields_append (w : CmdWord) :
    CmdWord.op w ++ (CmdWord.idx w ++ (w.extractLsb' 1 3 ++ CmdWord.sel w)) = w := by
  rw [CmdWord.op, CmdWord.idx, CmdWord.sel,
    BitVec.extractLsb'_append_extractLsb'_eq_extractLsb' (start₁ := 0) (len₁ := 1) rfl,
    BitVec.extractLsb'_append_extractLsb'_eq_extractLsb' (start₁ := 0) (len₁ := 4) rfl,
    BitVec.extractLsb'_append_extractLsb'_eq_extractLsb' (start₁ := 0) (len₁ := 8) rfl]
  exact BitVec.extractLsb'_eq_self

/-- Two command words are equal when their fields are. -/
theorem cmdWord_eq_iff (w w' : CmdWord) :
    w = w' ↔ CmdWord.op w = CmdWord.op w' ∧ CmdWord.idx w = CmdWord.idx w'
      ∧ w.extractLsb' 1 3 = w'.extractLsb' 1 3 ∧ CmdWord.sel w = CmdWord.sel w' := by
  constructor
  · rintro rfl
    exact ⟨rfl, rfl, rfl, rfl⟩
  · rintro ⟨hop, hidx, hrsv, hsel⟩
    rw [← fields_append w, ← fields_append w', hop, hidx, hrsv, hsel]

/-- The reserved bits of a command's word are 0 (R94). -/
theorem rsv_word (i : Instr) : i.word.extractLsb' 1 3 = 0#3 := by
  ext k hk
  have h4 : 1 + k < 4 := by omega
  have h8 : 1 + k < 8 := by omega
  simp [Instr.word, h4, h8]

/-! ## The fixed bits of a format (R94) -/

/-- Masking with the bits a format fixes keeps `OP`. -/
theorem op_and_mask (f : Format) (w : CmdWord) : CmdWord.op (w &&& f.mask) = CmdWord.op w := by
  have ones : ∀ x : BitVec 8, x &&& 0xFF#8 = x := fun _ => BitVec.and_allOnes
  cases f <;> simp [CmdWord.op, Format.mask, BitVec.extractLsb'_and, ones]

/-- Only format Z fixes `IDX`. -/
theorem idx_and_mask (f : Format) (w : CmdWord) :
    CmdWord.idx (w &&& f.mask) = if f = .z then CmdWord.idx w else 0#4 := by
  have ones : ∀ x : BitVec 4, x &&& 0xF#4 = x := fun _ => BitVec.and_allOnes
  cases f <;> simp [CmdWord.idx, Format.mask, BitVec.extractLsb'_and, ones]

/-- Every format fixes the reserved bits. -/
theorem rsv_and_mask (f : Format) (w : CmdWord) : (w &&& f.mask).extractLsb' 1 3 = w.extractLsb' 1 3 := by
  have ones : ∀ x : BitVec 3, x &&& 0x7#3 = x := fun _ => BitVec.and_allOnes
  cases f <;> simp [Format.mask, BitVec.extractLsb'_and, ones]

/-- Every format but S fixes `SEL`. -/
theorem sel_and_mask (f : Format) (w : CmdWord) :
    CmdWord.sel (w &&& f.mask) = if f = .s then 0#1 else CmdWord.sel w := by
  have ones : ∀ x : BitVec 1, x &&& 1#1 = x := fun _ => BitVec.and_allOnes
  cases f <;> simp [CmdWord.sel, Format.mask, BitVec.extractLsb'_and, ones]

/-- The opcode's place is `OP` (R93). -/
theorem op_opcodeWord (o : BitVec 8) : CmdWord.op (o.setWidth 16 <<< 8) = o := by
  ext k hk
  have h16 : 8 + k < 16 := by omega
  simp [CmdWord.op, hk, h16]

/-- The bits below the opcode's place are 0. -/
theorem low_opcodeWord (o : BitVec 8) {lo len : Nat} (h : lo + len ≤ 8) :
    (o.setWidth 16 <<< 8 : CmdWord).extractLsb' lo len = 0#len := by
  ext k hk
  have h8 : lo + k < 8 := by omega
  simp [h8]

/-- The fields a format does not use are 0 in a word. -/
abbrev Format.UnusedZero (f : Format) (w : CmdWord) : Prop :=
  (f = .z → CmdWord.idx w = 0#4) ∧ w.extractLsb' 1 3 = 0#3 ∧ (f ≠ .s → CmdWord.sel w = 0#1)

/-- A word has the fixed bits of a row exactly when its `OP` is the row's and the fields the row's format does
not use are 0. -/
theorem and_mask_eq_iff (f : Format) (o : BitVec 8) (w : CmdWord) :
    w &&& f.mask = o.setWidth 16 <<< 8 ↔ CmdWord.op w = o ∧ f.UnusedZero w := by
  have hidx : CmdWord.idx (o.setWidth 16 <<< 8) = 0#4 := low_opcodeWord o (by decide)
  have hrsv : (o.setWidth 16 <<< 8 : CmdWord).extractLsb' 1 3 = 0#3 := low_opcodeWord o (by decide)
  have hsel : CmdWord.sel (o.setWidth 16 <<< 8) = 0#1 := low_opcodeWord o (by decide)
  rw [cmdWord_eq_iff, op_and_mask, idx_and_mask, rsv_and_mask, sel_and_mask, op_opcodeWord, hidx, hrsv, hsel]
  simp [Format.UnusedZero]

/-! ## The rows (R96, R97) -/

/-- Different rows have different opcodes. -/
theorem opcode_injective : Function.Injective Mnemonic.opcode := fun m m' h =>
  Option.some.inj (by rw [← ofOpcode_opcode m, h, ofOpcode_opcode])

/-- A word decodes to a command exactly when it matches a row, and then to that row's command (R96). -/
theorem decode_eq_ok_iff (c : Command) (i : Instr) :
    decode c = .ok i ↔ ∃ m : Mnemonic, CmdWord.op c.cmd = m.opcode ∧ m.format.UnusedZero c.cmd
      ∧ m.toInstr (CmdWord.idx c.cmd) (CmdWord.sel c.cmd) c.wdata = i := by
  constructor
  · intro h
    obtain ⟨m, -, hmask, hok⟩ | ⟨m, -, -, herr⟩ | ⟨-, herr⟩ := decode_cases c
    · obtain ⟨hop, hzero⟩ := (and_mask_eq_iff _ _ _).1 hmask
      exact ⟨m, hop, hzero, Except.ok.inj (hok.symm.trans h)⟩
    · exact nomatch herr.symm.trans h
    · exact nomatch herr.symm.trans h
  · rintro ⟨m, hop, hzero, rfl⟩
    exact decode_of_row c.wdata (hop ▸ ofOpcode_opcode m) ((and_mask_eq_iff _ _ _).2 ⟨hop, hzero⟩)

/-- A word whose `OP` is a row's is illegal when a field the row's format does not use is not 0 (R99). -/
theorem decode_of_not_unusedZero {w : CmdWord} {m : Mnemonic} (d : Word) (hop : CmdWord.op w = m.opcode)
    (h : ¬ m.format.UnusedZero w) : decode { cmd := w, wdata := d } = .error .reservedField := by
  have hfind : Mnemonic.ofOpcode (CmdWord.op w) = some m := hop ▸ ofOpcode_opcode m
  have hmask : ¬ w &&& m.format.mask = m.opcode.setWidth 16 <<< 8 := fun hm =>
    h ((and_mask_eq_iff _ _ _).1 hm).2
  simp only [decode, hfind, hmask, if_false]

/-- A word whose `OP` is in no row is illegal (R98). -/
theorem decode_of_reservedOpcode {c : Command} (h : ∀ m : Mnemonic, m.opcode ≠ CmdWord.op c.cmd) :
    decode c = .error .reservedOpcode := by
  simp only [decode, (ofOpcode_eq_none _).2 h]

/-- The ranges of R98. -/
abbrev ReservedRange (n : Nat) : Prop :=
  (0x05 ≤ n ∧ n ≤ 0x0F) ∨ n = 0x17 ∨ n = 0x1F ∨ (0x22 ≤ n ∧ n ≤ 0x2F) ∨ (0x32 ≤ n ∧ n ≤ 0x3F)
  ∨ (0x41 ≤ n ∧ n ≤ 0x4F) ∨ 0x52 ≤ n

/-- An opcode is in no row exactly when it is in one of the ranges of R98. -/
theorem no_row_iff_reservedRange (op : BitVec 8) :
    (∀ m : Mnemonic, m.opcode ≠ op) ↔ ReservedRange op.toNat := by
  constructor
  · intro h
    have hnot : op.toNat ∉ Mnemonic.all.map (fun m => m.opcode.toNat) := by
      rw [List.mem_map]
      rintro ⟨m, -, hm⟩
      exact h m (BitVec.eq_of_toNat_eq hm)
    simp only [Mnemonic.opcode, BitVec.ofNat_eq_ofNat, Mnemonic.all, List.map_cons, BitVec.toNat_ofNat,
      Nat.reducePow, Nat.zero_mod, Nat.one_mod, Nat.reduceMod, List.map_nil, List.mem_cons, List.not_mem_nil,
      or_false, not_or] at hnot
    unfold ReservedRange
    omega
  · rintro h m rfl
    unfold ReservedRange at h
    cases m <;> exact absurd h (by decide)

/-! ## The fields of a decoded command -/

theorem toInstr_idxField (m : Mnemonic) (i : Nibble) (j : BitVec 1) (d : Word) :
    (m.toInstr i j d).idxField = if m.format = .z then 0 else i := by
  cases m <;> rfl

theorem toInstr_selField (m : Mnemonic) (i : Nibble) (j : BitVec 1) (d : Word) :
    (m.toInstr i j d).selField = if m.format = .s then j else 0 := by
  cases m <;> rfl

theorem toInstr_dataField (m : Mnemonic) (i : Nibble) (j : BitVec 1) (d : Word) :
    (m.toInstr i j d).dataField = if m.usesData = true then d else 0 := by
  cases m <;> rfl

/-- A row not marked D makes the same command of every `WDATA` (R100). -/
theorem toInstr_wdata_irrelevant {m : Mnemonic} (h : m.usesData = false) (i : Nibble) (j : BitVec 1)
    (d d' : Word) : m.toInstr i j d = m.toInstr i j d' := by
  cases m with
  | wrp | wrq | wrs | wrv | wrkey | wrord | wrsp => exact nomatch h
  | _ => rfl

/-- A command is the one its row makes of its own fields. -/
theorem toInstr_fields (i : Instr) : i.mnemonic.toInstr i.idxField i.selField i.dataField = i := by
  cases i <;> rfl

/-- The command a row makes of a word's fields has that word, when the fields the row does not use are 0. -/
theorem word_toInstr {m : Mnemonic} {w : CmdWord} (hop : CmdWord.op w = m.opcode)
    (hzero : m.format.UnusedZero w) (d : Word) : (m.toInstr (CmdWord.idx w) (CmdWord.sel w) d).word = w := by
  obtain ⟨hidx, hrsv, hsel⟩ := hzero
  refine (cmdWord_eq_iff _ _).2 ⟨?_, ?_, (rsv_word _).trans hrsv.symm, ?_⟩
  · rw [op_word, toInstr_mnemonic, hop]
  · rw [idx_word, toInstr_idxField, ite_eq_right_iff]
    exact fun hz => (hidx hz).symm
  · rw [sel_word, toInstr_selField, ite_eq_left_iff]
    exact fun hs => (hsel hs).symm

end Sys2Proof
end

section
/-! PROOFS. Encoding and decoding undo each other, and what the CORE answers to any word (R92 to R101). -/

namespace Sys2Proof.Machine

/-! ## Round trips -/

/-- Settles O2: the word of a command carries its row's fixed bits and its fields, and the row makes the
command of those fields. -/
theorem encodeThenDecode : Obligations.EncodeThenDecode := by
  intro i
  have hop : Mnemonic.ofOpcode (CmdWord.op i.word) = some i.mnemonic := by
    rw [op_word, ofOpcode_opcode]
  calc decode (encode i)
      = .ok (i.mnemonic.toInstr (CmdWord.idx i.word) (CmdWord.sel i.word) i.dataField) :=
        decode_of_row i.dataField hop (word_and_mask i)
    _ = .ok i := by rw [idx_word, sel_word, toInstr_fields]

/-- Settles O3: the decoded command has the word's fields, and a row not marked D drops `WDATA`. -/
theorem decodeThenEncode : Obligations.DecodeThenEncode := by
  constructor
  · intro c i h
    obtain ⟨m, hop, hzero, rfl⟩ := (decode_eq_ok_iff c i).1 h
    refine ⟨word_toInstr hop hzero c.wdata, fun hdata => ?_⟩
    rw [toInstr_mnemonic] at hdata
    exact (toInstr_dataField ..).trans (if_pos hdata)
  · intro w d d' i st h hdata
    obtain ⟨m, hop, hzero, rfl⟩ := (decode_eq_ok_iff _ _).1 h
    rw [toInstr_mnemonic] at hdata
    have h' : decode { cmd := w, wdata := d' } = .ok (m.toInstr (CmdWord.idx w) (CmdWord.sel w) d) :=
      (decode_eq_ok_iff _ _).2 ⟨m, hop, hzero, toInstr_wdata_irrelevant hdata ..⟩
    rw [execute_of_decode h, execute_of_decode h']

/-! ## Legal and illegal words -/

/-- An illegal word raises `E_OPCODE`, for whichever reason it is illegal (R96). -/
theorem execute_of_decode_error {c : Command} {why : Illegal} (h : decode c = .error why) (st : State) :
    execute st c = .next (st.raise .opcode c.cmd) := by
  simp [execute, h]

/-- Settles O4: the decoder's answer for a word, row by row. -/
theorem legalWordsAreTheTable : Obligations.LegalWordsAreTheTable := by
  refine ⟨fun c => ⟨?_, ?_⟩, ?_, fun m m' h => opcode_injective h, ?_⟩
  · rintro ⟨i, hi⟩
    obtain ⟨m, hop, hzero, -⟩ := (decode_eq_ok_iff c i).1 hi
    exact ⟨m, hop, (and_mask_eq_iff ..).2 ⟨hop, hzero⟩⟩
  · rintro ⟨m, hop, hmask⟩
    exact ⟨_, (decode_eq_ok_iff c _).2 ⟨m, hop, ((and_mask_eq_iff ..).1 hmask).2, rfl⟩⟩
  · intro c i h
    obtain ⟨m, hop, -, rfl⟩ := (decode_eq_ok_iff c i).1 h
    rwa [toInstr_mnemonic]
  · intro st c hillegal
    obtain ⟨i, hi, -⟩ | ⟨why, -, hraise⟩ := execute_cases st c
    · exact absurd hi (hillegal i)
    · exact hraise

/-- Settles O5: the gaps of the opcode column, and error entry written out field by field. -/
theorem reservedOpcodesRefused : Obligations.ReservedOpcodesRefused := by
  refine fun op => ⟨no_row_iff_reservedRange op, ?_⟩
  rintro hno st c rfl
  exact execute_of_decode_error (decode_of_reservedOpcode hno) st

/-- Settles O6: an unused field that is not 0 breaks the fixed bits of the row its `OP` selects. -/
theorem unusedFieldsRefused : Obligations.UnusedFieldsRefused := by
  constructor
  · intro st c m hop hused
    refine execute_of_decode_error (decode_of_not_unusedZero c.wdata hop ?_) st
    rintro ⟨hidx, hrsv, hsel⟩
    obtain hr | ⟨hf, hs⟩ | ⟨hf, hi⟩ := hused
    · exact hr hrsv
    · exact hs (hsel hf)
    · exact hi (hidx hf)
  · intro d
    exact ⟨decode_of_not_unusedZero (m := .nop) d rfl (by decide),
      decode_of_not_unusedZero (m := .keygen) d rfl (by decide),
      decode_of_not_unusedZero (m := .wrsp) d rfl (by decide),
      decode_of_not_unusedZero (m := .tenc) d rfl (by decide),
      decode_of_row (m := .nop) d rfl rfl, decode_of_row (m := .keygen) d rfl rfl,
      decode_of_row (m := .wrsp) d rfl rfl, decode_of_row (m := .tenc) d rfl rfl⟩

/-- Settles O1: each legal word matches its row; `0x2110` has an `IDX` in format Z, and no row has OP `0x17`. -/
theorem sampleWordsDecode : Obligations.SampleWordsDecode :=
  ⟨decode_of_row (m := .nop) 7 rfl rfl, decode_of_row (m := .rdslot) 0 rfl rfl,
    decode_of_row (m := .wrsp) 17 rfl rfl, decode_of_row (m := .rdord) 0 rfl rfl,
    decode_of_row (m := .kstep) 0 rfl rfl, decode_of_row (m := .tdec) 0 rfl rfl,
    decode_of_row (m := .selord) 0 rfl rfl, decode_of_row (m := .dec) 0 rfl rfl,
    decode_of_not_unusedZero (m := .keygen) 0 rfl (by decide),
    decode_of_reservedOpcode ((no_row_iff_reservedRange _).2 (.inr (.inl rfl)))⟩

/-! ## Every word is answered -/

/-- Error entry answers one of the codes 1..7 (R251, R262). -/
theorem State.raise_answers (st : State) (e : ErrCode) (cmd : CmdWord) :
    ∃ r, (st.raise e cmd).rsp = some r ∧ r.err.toNat ≤ 7 := ⟨_, rfl, e.code_le_seven⟩

/-- A command is answered where it is refused and where it completes (R101). -/
theorem exec_answers (st : State) (i : Instr) :
    ∃ t r, exec i st = .next t ∧ t.rsp = some r ∧ r.err.toNat ≤ 7 := by
  obtain ⟨e, he⟩ | ⟨u, w, -, hw⟩ := refuses_or_completes st i
  · obtain ⟨r, hr, hle⟩ := st.raise_answers e i.word
    exact ⟨_, r, he, hr, hle⟩
  · exact ⟨_, _, hw, rfl, Nat.zero_le 7⟩

/-- Settles O52: a legal word is answered by its command, an illegal one by error entry. -/
theorem everyCommandIsAnswered : Obligations.EveryCommandIsAnswered := by
  intro st c
  obtain ⟨i, -, hexec⟩ | ⟨-, -, hraise⟩ := execute_cases st c
  · rw [hexec]
    exact exec_answers st i
  · obtain ⟨r, hr, hle⟩ := st.raise_answers .opcode c.cmd
    exact ⟨_, r, hraise, hr, hle⟩

end Sys2Proof.Machine
end

section
/-! PROOFS. The mixing functions of the key schedule: each a chain of reversible steps (R120 to R122). -/

namespace Sys2Proof.Machine

/-! ## Reversible steps on words -/

theorem rotateRight_rotateRight (x : Word) {a b : Nat} (h : a + b < 64) :
    (x.rotateRight a).rotateRight b = x.rotateRight (a + b) := by
  have ha : a < 64 := by omega
  have hb : b < 64 := by omega
  ext i hi
  simp only [BitVec.getElem_rotateRight, Nat.mod_eq_of_lt, h, ha, hb]
  grind

theorem xor_bijective (c : Word) : Function.Bijective (fun x : Word => x ^^^ c) :=
  Function.Involutive.bijective fun x => xor_xor_self x c

theorem add_bijective (c : Word) : Function.Bijective (fun x : Word => add x c) :=
  Function.bijective_iff_has_inverse.2 ⟨fun x => sub x c, fun x => sub_add x c, fun x => add_sub x c⟩

theorem rotr_bijective {r : Nat} (h : r < 64) : Function.Bijective (fun x : Word => rotr x r) :=
  Function.bijective_iff_has_inverse.2 ⟨fun x => rotl x r, fun x => rotl_rotr x h, fun x => rotr_rotl x h⟩

theorem rotl_bijective {r : Nat} (h : r < 64) : Function.Bijective (fun x : Word => rotl x r) :=
  Function.bijective_iff_has_inverse.2 ⟨fun x => rotr x r, fun x => rotr_rotl x h, fun x => rotl_rotr x h⟩

/-- The odd multiplier makes the multiplication reversible (R121). -/
theorem mul_or_one_bijective (q : Word) : Function.Bijective (fun x : Word => mul x (q ||| 1)) := by
  obtain ⟨m, hm⟩ := exists_mul_or_one_eq_one q
  have hm' : (q ||| 1) * m = 1 := (BitVec.mul_comm ..).trans hm
  refine Function.bijective_iff_has_inverse.2 ⟨fun x => x * m, fun x => ?_, fun x => ?_⟩
  · exact (BitVec.mul_assoc ..).trans (by rw [hm', mul_one])
  · exact (BitVec.mul_assoc ..).trans (by rw [hm, mul_one])

/-! ## `scramble` (R120) -/

theorem scramble_eq (s p : Word) : scramble s p =
    ((((((((s ^^^ (p <<< 17)).rotateRight 13) ^^^ (p >>> 5)) ^^^ (p <<< 29)).rotateLeft 7)
      ^^^ (p >>> 11)) ^^^ (p <<< 19)).rotateRight 23) ^^^ (p >>> 3) := by
  simp only [scramble, shl, shr, rotr_eq_rotateRight, rotl_eq_rotateLeft, Nat.reduceLT]

theorem scramble_bijective (p : Word) : Function.Bijective (fun s => scramble s p) :=
  (xor_bijective _).comp <| (rotr_bijective (by decide)).comp <| (xor_bijective _).comp <|
    (xor_bijective _).comp <| (rotl_bijective (by decide)).comp <| (xor_bijective _).comp <|
    (xor_bijective _).comp <| (rotr_bijective (by decide)).comp <| xor_bijective _

/-- With no parameter bits only the rotations are left, 13 - 7 + 23 to the right. -/
theorem scramble_zero (s : Word) : scramble s 0 = s.rotateRight 29 := by
  have hrot : s.rotateRight 13 = (s.rotateRight 6).rotateRight 7 :=
    (rotateRight_rotateRight s (a := 6) (b := 7) (by decide)).symm
  calc scramble s 0
      = ((s.rotateRight 13).rotateLeft 7).rotateRight 23 := by simp [scramble_eq]
    _ = (s.rotateRight 6).rotateRight 23 := by rw [hrot, rotateLeft_rotateRight _ (by decide)]
    _ = s.rotateRight 29 := rotateRight_rotateRight s (a := 6) (b := 23) (by decide)

/-- Settles O22: each step of the chain is reversible. -/
theorem scrambleSteps : Obligations.ScrambleSteps :=
  fun p => ⟨fun s => scramble_eq s p, scramble_bijective p, scramble_zero⟩

/-! ## `generate` (R121) -/

/-- The product `y6` inside `generate` (R121). -/
def generateProduct (e q : Word) : Word := mul (rotr (add (rotl (e ^^^ q) 19) q ^^^ shl q 31) 11) (q ||| 1)

theorem generate_eq_product_or_one (e q : Word) : generate e q = generateProduct e q ||| 1 := rfl

theorem generateProduct_eq (e q : Word) : generateProduct e q =
    (((((e ^^^ q).rotateLeft 19) + q) ^^^ (q <<< 31)).rotateRight 11) * (q ||| 1) := by
  simp only [generateProduct, shl, add, mul, rotr_eq_rotateRight, rotl_eq_rotateLeft, Nat.reduceLT]

theorem generateProduct_bijective (q : Word) : Function.Bijective (fun e => generateProduct e q) :=
  (mul_or_one_bijective q).comp <| (rotr_bijective (by decide)).comp <| (xor_bijective _).comp <|
    (add_bijective q).comp <| (rotl_bijective (by decide)).comp <| xor_bijective q

theorem generate_getLsbD_zero (e q : Word) : (generate e q).getLsbD 0 = true := by
  simp [generate_eq_product_or_one]

/-- The products 0 and 1 differ in bit 0 only, so their embryos give the same key. -/
theorem generate_not_injective (q : Word) : ∃ e e' : Word, e ≠ e' ∧ generate e q = generate e' q := by
  obtain ⟨e, he⟩ := (generateProduct_bijective q).surjective 0
  obtain ⟨e', he'⟩ := (generateProduct_bijective q).surjective 1
  refine ⟨e, e', ?_, ?_⟩
  · rintro rfl
    exact absurd (he.symm.trans he') (by decide)
  · simp only [generate_eq_product_or_one, he, he']
    rfl

/-- Settles O23: the corner cases are computed; the final OR hides one bit of a reversible product. -/
theorem generateSteps : Obligations.GenerateSteps :=
  ⟨fun e q => by rw [generate_eq_product_or_one, generateProduct_eq], generate_getLsbD_zero, by decide,
    by decide, by decide, by decide, generate_not_injective⟩

/-! ## `mutate` (R122) -/

theorem mutateProduct_eq (s q : Word) : mutateProduct s q =
    (((((s ^^^ (q <<< 17)).rotateLeft 13) + q) ^^^ (q >>> 7)).rotateRight 19) * (q ||| 1) := by
  simp only [mutateProduct, shl, shr, add, mul, rotr_eq_rotateRight, rotl_eq_rotateLeft, Nat.reduceLT]

theorem mutate_eq (s q : Word) :
    mutate s q = if mutateProduct s q = 0 then q ^^^ mask64 else mutateProduct s q := rfl

theorem mutateProduct_bijective (q : Word) : Function.Bijective (fun s => mutateProduct s q) :=
  (mul_or_one_bijective q).comp <| (rotr_bijective (by decide)).comp <| (xor_bijective _).comp <|
    (add_bijective q).comp <| (rotl_bijective (by decide)).comp <| xor_bijective _

/-- The seed R122 (a) names for `q`. -/
def zeroProductSeed (q : Word) : Word := ((q >>> 7) - q).rotateRight 13 ^^^ (q <<< 17)

theorem mutateProduct_zeroProductSeed (q : Word) : mutateProduct (zeroProductSeed q) q = 0 := by
  simp [mutateProduct_eq, zeroProductSeed, rotateLeft_rotateRight]

theorem mutateProduct_eq_zero_iff (s q : Word) : mutateProduct s q = 0 ↔ s = zeroProductSeed q := by
  constructor
  · intro h
    exact (mutateProduct_bijective q).injective (h.trans (mutateProduct_zeroProductSeed q).symm)
  · rintro rfl
    exact mutateProduct_zeroProductSeed q

theorem zeroProductSeed_mask64 : zeroProductSeed mask64 = 0xFFFFEFFFFFFE0000 := by decide

/-- The result is zero only where the product is, and there only when the replacement is. -/
theorem mutate_eq_zero_iff (s q : Word) : mutate s q = 0 ↔ q = mask64 ∧ s = zeroProductSeed mask64 := by
  rw [mutate_eq]
  split
  · next h =>
    rw [(mutateProduct_eq_zero_iff s q).1 h]
    refine BitVec.xor_eq_zero_iff.trans (iff_self_and.2 ?_)
    rintro rfl
    rfl
  · next h =>
    refine iff_of_false h ?_
    rintro ⟨rfl, rfl⟩
    exact h (mutateProduct_zeroProductSeed _)

/-- Settles O24: the product is a bijection of the seed that takes R122 (a)'s seed to 0. -/
theorem mutateSteps : Obligations.MutateSteps := by
  refine ⟨fun s q => ?_, mutateProduct_eq_zero_iff, fun s q => ?_⟩
  · rw [mutate_eq, mutateProduct_eq]
    rfl
  · rw [mutate_eq_zero_iff, zeroProductSeed_mask64]
    rfl

end Sys2Proof.Machine
end

section
/-! PROOFS. The key schedule and its two commands: the keys as a function of the slot number, `KSTEP` and
`KEYGEN` behind their checks, and the run of `KSTEP`s that `KEYGEN` stands for (R123 to R126). -/

namespace Sys2Proof.Machine

/-! ## The schedule (R123) -/

/-- The seed after `i` key derivation steps (R123). -/
abbrev seedAfter (q s : Word) (i : Nat) : Word := (fun x => mutate x q)^[i] s

/-- Key `i` of the schedule (R123). -/
abbrev scheduleKey (p q s : Word) (i : Nat) : Word := (keystep p q (seedAfter q s i)).1

theorem generateKeys_succ (p q s : Word) (n : Nat) :
    generateKeys p q s (n + 1) =
      ((keystep p q s).1 :: (generateKeys p q (mutate s q) n).1, (generateKeys p q (mutate s q) n).2) := rfl

theorem generateKeys_fst (p q s : Word) (n : Nat) :
    (generateKeys p q s n).1 = (List.range n).map (scheduleKey p q s) := by
  induction n generalizing s with
  | zero => rfl
  | succ n ih =>
    rw [generateKeys_succ, ih, List.range_succ_eq_map, List.map_cons, List.map_map]
    rfl

theorem generateKeys_snd (p q s : Word) (n : Nat) : (generateKeys p q s n).2 = seedAfter q s n := by
  induction n generalizing s with
  | zero => rfl
  | succ n ih => exact ih (mutate s q)

/-- A longer schedule is a shorter one continued. -/
theorem generateKeys_fst_succ (p q s : Word) (n : Nat) :
    (generateKeys p q s (n + 1)).1 = (generateKeys p q s n).1 ++ [scheduleKey p q s n] := by
  simp [generateKeys_fst, List.range_succ]

/-- The step that follows `n` steps makes key `n` and the seed after `n + 1` steps. -/
theorem keystep_generateKeys_snd (p q s : Word) (n : Nat) :
    keystep p q (generateKeys p q s n).2 = (scheduleKey p q s n, (generateKeys p q s (n + 1)).2) := by
  rw [generateKeys_snd, generateKeys_snd, seedAfter, seedAfter, Function.iterate_succ_apply']
  rfl

/-- Settles O25: the keys are the images of the slot numbers, in order. -/
theorem keyScheduleUnfolds : Obligations.KeyScheduleUnfolds := by
  refine fun p q s n => ⟨rfl, generateKeys_length p q s n, fun i hi => ?_, generateKeys_snd p q s n,
    fun m hm => ?_⟩
  · simp [generateKeys_fst, hi]
  · rw [generateKeys_fst, generateKeys_fst, ← List.map_take, List.take_range, min_eq_left hm]

/-! ## `KSTEP` (R124) -/

theorem kstep_word (i : Nibble) : (Instr.kstep i).word = 0x20#8 ++ i ++ 0#4 :=
  (append_idx_eq_or 0x20#8 i).symm

section
variable {st : State} {i : Nibble}

theorem exec_kstep_of_operands {p q s : Word} (hi : i.toNat < st.N) (hp : st.p = some p)
    (hq : st.q = some q) (hs : st.s = some s) :
    exec (.kstep i) st =
      .next
        { st with
          key := st.key.set i.toNat (some (keystep p q s).1)
          s := some (keystep p q s).2
          rsp := some { err := 0, rdata := 0 } } := by
  simp [exec, execKstep, hi, hp, hq, hs, State.respond, State.setKey]

theorem exec_kstep_of_uninit (hi : i.toNat < st.N) (h : st.p = none ∨ st.q = none ∨ st.s = none) :
    exec (.kstep i) st = .next (st.raise .uninit (Instr.kstep i).word) := by
  rw [exec, execKstep, if_pos (by simpa using hi)]
  split
  · next hp hq hs => simp [hp, hq, hs] at h
  · rfl

theorem exec_kstep_of_index (hi : st.N ≤ i.toNat) :
    exec (.kstep i) st = .next (st.raise .index (Instr.kstep i).word) :=
  if_neg (by simpa using hi)

end

/-- Settles O26: the three outcomes of `KSTEP`, in the order of its checks. -/
theorem kstepEffect : Obligations.KstepEffect := by
  intro st i d
  rw [← kstep_word]
  exact ⟨decode_word (.kstep i) d, fun p q s => exec_kstep_of_operands, exec_kstep_of_uninit,
    exec_kstep_of_index⟩

/-! ## `KEYGEN` (R125) -/

section
variable {st : State}

theorem exec_keygen_of_operands {p q s : Word} (hp : st.p = some p) (hq : st.q = some q)
    (hs : st.s = some s) :
    exec .keygen st =
      .next
        { st with
          key := (generateKeys p q s st.N).1.map some
          s := some (generateKeys p q s st.N).2
          rsp := some { err := 0, rdata := 0 } } := by
  simp [exec, execKeygen, hp, hq, hs, State.respond]

theorem exec_keygen_of_uninit (h : st.p = none ∨ st.q = none ∨ st.s = none) :
    exec .keygen st = .next (st.raise .uninit Instr.keygen.word) := by
  rw [exec, execKeygen]
  split
  · next hp hq hs => simp [hp, hq, hs] at h
  · rfl

end

/-- Settles O27: the two outcomes of `KEYGEN`. -/
theorem keygenEffect : Obligations.KeygenEffect :=
  fun _ d => ⟨decode_word .keygen d, fun _ _ _ => exec_keygen_of_operands, exec_keygen_of_uninit⟩

/-! ## `KEYGEN` as a run of `KSTEP`s (R125) -/

theorem execList_append_of_next {is : List Instr} {st t : State} (h : execList is st = .next t)
    (is' : List Instr) : execList (is ++ is') st = execList is' t := by
  induction is generalizing st with
  | nil => rw [List.nil_append, Host.Outcome.next.inj h]
  | cons i is ih =>
    obtain ⟨u, r, hu, -⟩ := exec_answers st i
    rw [execList_cons_of_next hu] at h
    rw [List.cons_append, execList_cons_of_next hu, ih h]

/-- `KSTEP 0; KSTEP 1; ...; KSTEP n-1`. -/
abbrev kstepList (n : Nat) : List Instr := (List.range n).map (fun i => .kstep (BitVec.ofNat 4 i))

/-- The state after `n` of the `KSTEP`s: `n` keys of the schedule in front of the old entries, and a response
once a command was executed. -/
def State.withKeys (st : State) (p q s : Word) (n : Nat) : State :=
  { st with
    key := (generateKeys p q s n).1.map some ++ st.key.drop n
    s := some (generateKeys p q s n).2
    rsp := if n = 0 then st.rsp else some { err := 0, rdata := 0 } }

/-- Writing key `n` behind the first `n` keys moves the border between new and old entries by one. -/
theorem set_keys_append_drop {file : List (Flagged Word)} {n : Nat} (hn : n < file.length) (p q s : Word) :
    ((generateKeys p q s n).1.map some ++ file.drop n).set n (some (scheduleKey p q s n)) =
      (generateKeys p q s (n + 1)).1.map some ++ file.drop (n + 1) := by
  rw [List.set_append_right n _ (by simp), List.length_map, generateKeys_length, Nat.sub_self,
    List.drop_eq_getElem_cons hn, List.set_cons_zero, generateKeys_fst_succ, List.map_append, List.append_assoc]
  rfl

section
variable {st : State} {p q s : Word}

theorem exec_kstep_withKeys (hlen : st.key.length = st.N) (hp : st.p = some p) (hq : st.q = some q)
    {n : Nat} (hn : n < st.N) :
    exec (.kstep (BitVec.ofNat 4 n)) (st.withKeys p q s n) = .next (st.withKeys p q s (n + 1)) := by
  have hnat : (BitVec.ofNat 4 n).toNat = n := Nat.mod_eq_of_lt (hn.trans_le st.N_le_sixteen)
  have hkeys := set_keys_append_drop (hlen ▸ hn) p q s
  rw [exec_kstep_of_operands (st := st.withKeys p q s n) (hnat.symm ▸ hn) hp hq rfl, hnat,
    keystep_generateKeys_snd]
  simp only [State.withKeys, hkeys, if_neg n.succ_ne_zero]

theorem execList_kstepList (hlen : st.key.length = st.N) (hp : st.p = some p) (hq : st.q = some q)
    (hs : st.s = some s) {n : Nat} (hn : n ≤ st.N) :
    execList (kstepList n) st = .next (st.withKeys p q s n) := by
  induction n with
  | zero => simp [kstepList, State.withKeys, generateKeys, ← hs]
  | succ n ih =>
    rw [kstepList, List.range_succ, List.map_append, execList_append_of_next (ih (by omega))]
    exact (execList_singleton ..).trans (exec_kstep_withKeys hlen hp hq hn)

end

/-- Settles O28: after `N` steps no old entry is left, and the run has answered. -/
theorem keygenEqualsKsteps : Obligations.KeygenEqualsKsteps := by
  intro st ⟨hlen, _, _⟩ hp hq hs
  obtain ⟨p, hp⟩ := Option.ne_none_iff_exists'.1 hp
  obtain ⟨q, hq⟩ := Option.ne_none_iff_exists'.1 hq
  obtain ⟨s, hs⟩ := Option.ne_none_iff_exists'.1 hs
  have hall : st.key.drop st.N = [] := List.drop_eq_nil_of_le hlen.le
  rw [execList_kstepList hlen hp hq hs le_rfl, exec_keygen_of_operands hp hq hs, State.withKeys, hall,
    List.append_nil, if_neg st.N_pos.ne']

/-! ## Derived keys are odd (R126) -/

theorem generateKeys_odd {p q s k : Word} {n : Nat} (hk : k ∈ (generateKeys p q s n).1) :
    k.getLsbD 0 = true := by
  rw [generateKeys_fst] at hk
  obtain ⟨i, -, rfl⟩ := List.mem_map.1 hk
  exact generate_getLsbD_zero _ _

/-- What a file holds where a value was written is that value, if the file has the entry. -/
theorem readEntry_set_eq_some {α : Type} {file : List (Flagged α)} {i : Nat} {a b : α}
    (h : readEntry (file.set i (some a)) i = some b) : a = b := by
  by_cases hi : i < file.length
  · exact Option.some.inj ((readEntry_set_same _ hi).symm.trans h)
  · simp [readEntry_of_le (file := file.set i (some a)) (i := i) (by simpa using hi)] at h

theorem mem_of_readEntry_map_some {α : Type} {values : List α} {i : Nat} {a : α}
    (h : readEntry (values.map some) i = some a) : a ∈ values := by
  cases hi : values[i]? with
  | none => simp [readEntry, hi] at h
  | some b =>
    obtain rfl : b = a := by simpa [readEntry, hi] using h
    exact List.mem_of_getElem? hi

section
variable {st u : State} {k : Word}

theorem Performs.kstep_key_odd {i : Nibble} (hu : Performs st (.kstep i) u) (hk : u.keyAt i.toNat = some k) :
    k.getLsbD 0 = true := by
  cases hu with
  | reads h => exact absurd h Bool.false_ne_true
  | kstep hi hp hq hs => exact readEntry_set_eq_some hk ▸ generate_getLsbD_zero _ _

theorem Performs.keygen_key_odd {i : Nat} (hu : Performs st .keygen u) (hk : u.keyAt i = some k) :
    k.getLsbD 0 = true := by
  cases hu with
  | reads h => exact absurd h Bool.false_ne_true
  | keygen hp hq hs => exact generateKeys_odd (mem_of_readEntry_map_some hk)

end

/-- Settles O29: an accepted command performed its change, which writes results of `generate` only; `WRKEY`
writes what it is given. -/
theorem derivedKeysAreOdd : Obligations.DerivedKeysAreOdd := by
  refine ⟨fun st t i k hacc h hk => ?_, fun st t i k hacc h hk => ?_, _, 2, rfl, by decide, by decide⟩ <;>
    obtain ⟨u, w, hu, rfl⟩ := performs_of_accepted h hacc
  · exact hu.kstep_key_odd hk
  · exact hu.keygen_key_odd hk

end Sys2Proof.Machine
end

section
/-! PROOFS. The transform library: the formulas of T1 to T4, what an encode records, the catalog (R141 to R157). -/

namespace Sys2Proof.Machine

/-! ## The formulas (R141 to R148) -/

theorem t1Encode_eq (v k : Word) : t1Encode v k =
    (v.rotateLeft (k.toNat % 63 + 1) ^^^ k, [BitVec.ofNat 64 (k.toNat % 63 + 1)]) := by
  rw [t1Encode, rotl_eq_rotateLeft _ (by omega)]

theorem t1Decode_eq (t k : Word) {r : Word} (hr : r.toNat ≤ 63) :
    t1Decode t k r = (t ^^^ k).rotateRight r.toNat :=
  rotr_eq_rotateRight _ (by omega)

theorem t2Encode_eq (v k : Word) :
    t2Encode v k = ((v ^^^ k).rotateLeft 17 ^^^ k.rotateLeft 32, [k.rotateLeft 32]) := by
  simp only [t2Encode, rotl_eq_rotateLeft, Nat.reduceLT]

theorem t2Decode_eq (t k mask : Word) : t2Decode t k mask = (t ^^^ mask).rotateRight 17 ^^^ k := by
  rw [t2Decode, rotr_eq_rotateRight _ (by decide)]

theorem t3Encode_eq (v k : Word) : t3Encode v k =
    (((v ^^^ (k &&& 0xFFFFFFFF)).rotateLeft 13 + (k >>> 32)) ^^^ ((k &&& 0xFFFFFFFF) <<< 16),
      [k >>> 32]) := by
  simp only [t3Encode, add, shl, shr, low32, rotl_eq_rotateLeft, Nat.reduceLT]

theorem t3Decode_eq (t k h : Word) : t3Decode t k h =
    ((t ^^^ ((k &&& 0xFFFFFFFF) <<< 16)) - h).rotateRight 13 ^^^ (k &&& 0xFFFFFFFF) := by
  simp only [t3Decode, sub, shl, low32, rotr_eq_rotateRight, Nat.reduceLT]

theorem t4Encode_eq (v k : Word) : t4Encode v k =
    (((v ^^^ k).rotateLeft (k.toNat % 31 + 1) ^^^ (k >>> 16)).rotateRight ((k >>> 8).toNat % 31 + 1)
        ^^^ (k <<< 16),
      [BitVec.ofNat 64 (k.toNat % 31 + 1), BitVec.ofNat 64 ((k >>> 8).toNat % 31 + 1)]) := by
  rw [t4Encode, rotl_eq_rotateLeft _ (by omega), rotr_eq_rotateRight _ (by omega)]
  rfl

theorem t4Decode_eq (t k : Word) {r1 r2 : Word} (hr1 : r1.toNat ≤ 63) (hr2 : r2.toNat ≤ 63) :
    t4Decode t k r1 r2 =
      ((t ^^^ (k <<< 16)).rotateLeft r2.toNat ^^^ (k >>> 16)).rotateRight r1.toNat ^^^ k := by
  rw [t4Decode, rotr_eq_rotateRight _ (by omega), rotl_eq_rotateLeft _ (by omega)]
  rfl

/-- Settles O30: every rotation count is below 64, where the rotations of R10 are those of bit vectors. -/
theorem transformFormulas : Obligations.TransformFormulas := fun v k =>
  ⟨t1Encode_eq v k, fun _ _ hr => t1Decode_eq v k hr, t2Encode_eq v k, t2Decode_eq v k, t3Encode_eq v k,
    t3Decode_eq v k, t4Encode_eq v k, fun _ _ _ hr1 _ hr2 => t4Decode_eq v k hr1 hr2, rfl, rfl, rfl, rfl,
    fun _ => rfl, fun _ => rfl, fun _ => rfl, fun _ _ => rfl⟩

/-! ## Round trip (R149) -/

/-- Two words with the same encoding have the same side parameters as well, so both are what it decodes to. -/
theorem tenc_fst_injective (kind : Kind) (k : Word) : Function.Injective (fun x => (tenc kind x k).1) := by
  intro x y hxy
  calc x = tdec kind (tenc kind x k).1 k (tenc kind x k).2 := (tdec_tenc kind x k).symm
    _ = tdec kind (tenc kind y k).1 k (tenc kind y k).2 :=
        congrArg₂ (tdec kind · k ·) hxy (tenc_snd_eq kind x y k)
    _ = y := tdec_tenc kind y k

/-- Settles O31: an injective function on the finitely many words is a bijection. -/
theorem transformRoundTrip : Obligations.TransformRoundTrip := fun kind k =>
  ⟨fun x => tdec_tenc kind x k, (tenc_fst_injective kind k).bijective_of_finite,
    fun x y => tenc_snd_eq kind x y k⟩

/-! ## What an encode records (R151, R156) -/

/-- A count taken modulo `m` and raised by one is recorded as a number from 1 to `m`. -/
theorem recorded_count_range (x : Nat) {m : Nat} (hpos : 0 < m) (hm : m < 64) :
    1 ≤ (BitVec.ofNat 64 (x % m + 1)).toNat ∧ (BitVec.ofNat 64 (x % m + 1)).toNat ≤ m := by
  have hlt : x % m < m := Nat.mod_lt x hpos
  rw [toNat_ofNat_count (by omega)]
  omega

/-- Settles O32: the recorded counts are remainders raised by one. -/
theorem encodePassesSpcheck : Obligations.EncodePassesSpcheck := by
  intro kind v k
  obtain ⟨hr, hr'⟩ := recorded_count_range k.toNat (m := 63) (by decide) (by decide)
  obtain ⟨hr1, hr1'⟩ := recorded_count_range k.toNat (m := 31) (by decide) (by decide)
  obtain ⟨hr2, hr2'⟩ := recorded_count_range (shr k 8).toNat (m := 31) (by decide) (by decide)
  exact ⟨tenc_snd_length kind v k, spcheck_tenc kind v k, ⟨_, rfl, hr, hr'⟩,
    ⟨_, _, rfl, hr1, hr1', hr2, hr2'⟩⟩

/-! ## The catalog and `spcheck` (R150, R151, R155) -/

theorem kindOf_eq (i : Nat) : kindOf i =
    if i % 4 = 0 then .t1 else if i % 4 = 1 then .t2 else if i % 4 = 2 then .t3 else .t4 := by
  have h : i % 4 < 4 := Nat.mod_lt i (by decide)
  unfold kindOf
  interval_cases i % 4 <;> rfl

theorem spcheck_of_length_ne {kind : Kind} {sp : List Word} (h : sp.length ≠ kind.arity) :
    spcheck kind sp = some .spArity :=
  if_pos h

theorem spcheck_t1 (w : Word) :
    spcheck .t1 [w] = if 1 ≤ w.toNat ∧ w.toNat ≤ 63 then none else some .spRange := by
  have hcount : spcheck .t1 [w] = if isCount w then none else some .spRange := rfl
  simp only [hcount, isCount_eq_true]

theorem spcheck_t4 (w0 w1 : Word) :
    spcheck .t4 [w0, w1] =
      if (1 ≤ w0.toNat ∧ w0.toNat ≤ 63) ∧ (1 ≤ w1.toNat ∧ w1.toNat ≤ 63) then none
      else some .spRange := by
  have hcounts : spcheck .t4 [w0, w1] =
      if isCount w0 then if isCount w1 then none else some .spRange else some .spRange := rfl
  simp only [hcounts, ← isCount_eq_true, ite_and]

/-- Settles O33: the length is checked first, then the counts as full words. -/
theorem catalogAndSpcheck : Obligations.CatalogAndSpcheck :=
  ⟨kindOf_eq, arityOf_eq, fun _ _ => spcheck_of_length_ne, spcheck_t1, fun _ => ⟨rfl, rfl⟩, spcheck_t4⟩

end Sys2Proof.Machine
end

section
/-! PROOFS. `TENC` and `TDEC`: their outcomes in the order of their checks, and the round trip of one slot
(R153, R154). -/

namespace Sys2Proof.Machine

/-- The state after `TENC i` of the word `v` under the key `k`. -/
def State.withTenc (st : State) (i : Nat) (v k : Word) : State :=
  { st with
    v := some (tenc (kindOf i) v k).1
    sp := st.sp.set i (tenc (kindOf i) v k).2
    rsp := some { err := 0, rdata := 0 } }

/-- The state after `TDEC i` of the word `t` under the key `k`. -/
def State.withTdec (st : State) (i : Nat) (t k : Word) : State :=
  { st with v := some (tdec (kindOf i) t k (st.spAt i)), rsp := some { err := 0, rdata := 0 } }

section
variable {st : State} {i : Nibble}

/-! ## `TENC` (R153) -/

theorem tenc_word (i : Nibble) : (Instr.tenc i).word = 0x30#8 ++ i ++ 0#4 :=
  (append_idx_eq_or 0x30#8 i).symm

theorem exec_tenc_of_operands {v k : Word} (hi : i.toNat < st.N) (hv : st.v = some v)
    (hk : st.keyAt i.toNat = some k) :
    exec (.tenc i) st = .next (st.withTenc i.toNat v k) := by
  simp [exec, execTenc, hi, hv, hk, State.respond, State.setSp, State.withTenc]

theorem exec_tenc_of_uninit (hi : i.toNat < st.N) (h : st.v = none ∨ st.keyAt i.toNat = none) :
    exec (.tenc i) st = .next (st.raise .uninit (Instr.tenc i).word) := by
  rw [exec, execTenc, if_pos (by simpa using hi)]
  split
  · next hv hk => simp [hv, hk] at h
  · rfl

theorem exec_tenc_of_index (hi : st.N ≤ i.toNat) :
    exec (.tenc i) st = .next (st.raise .index (Instr.tenc i).word) :=
  if_neg (by simpa using hi)

/-! ## `TDEC` (R154) -/

theorem tdec_word (i : Nibble) : (Instr.tdec i).word = 0x31#8 ++ i ++ 0#4 :=
  (append_idx_eq_or 0x31#8 i).symm

theorem exec_tdec_of_operands {v k : Word} (hi : i.toNat < st.N) (hv : st.v = some v)
    (hk : st.keyAt i.toNat = some k) (hsp : spcheck (kindOf i.toNat) (st.spAt i.toNat) = none) :
    exec (.tdec i) st = .next (st.withTdec i.toNat v k) := by
  simp [exec, execTdec, hi, hv, hk, hsp, State.respond, State.withTdec]

theorem exec_tdec_of_spcheck {v k : Word} {e : ErrCode} (hi : i.toNat < st.N) (hv : st.v = some v)
    (hk : st.keyAt i.toNat = some k) (hsp : spcheck (kindOf i.toNat) (st.spAt i.toNat) = some e) :
    exec (.tdec i) st = .next (st.raise e (Instr.tdec i).word) := by
  simp [exec, execTdec, hi, hv, hk, hsp]

theorem exec_tdec_of_uninit (hi : i.toNat < st.N) (h : st.v = none ∨ st.keyAt i.toNat = none) :
    exec (.tdec i) st = .next (st.raise .uninit (Instr.tdec i).word) := by
  rw [exec, execTdec, if_pos (by simpa using hi)]
  split
  · next hv hk => simp [hv, hk] at h
  · rfl

theorem exec_tdec_of_index (hi : st.N ≤ i.toNat) :
    exec (.tdec i) st = .next (st.raise .index (Instr.tdec i).word) :=
  if_neg (by simpa using hi)

/-! ## The two in sequence -/

/-- A slot holds what its `TENC` recorded. -/
theorem spAt_withTenc {n : Nat} (hn : n < st.sp.length) (v k : Word) :
    (st.withTenc n v k).spAt n = (tenc (kindOf n) v k).2 :=
  (State.spAt_setSp hn _ n).trans (if_pos rfl)

/-- A `TENC` that was accepted found its index in range and its operands valid. -/
theorem operands_of_tenc_accepted {t : State} (h : exec (.tenc i) st = .next t) (hacc : t.Accepted) :
    ∃ v k, i.toNat < st.N ∧ st.v = some v ∧ st.keyAt i.toNat = some k := by
  obtain ⟨u, w, hu, -⟩ := performs_of_accepted h hacc
  cases hu with
  | reads hread => exact absurd hread Bool.false_ne_true
  | tenc hi hv hk => exact ⟨_, _, hi, hv, hk⟩

end

/-- Settles O34: the three outcomes of `TENC`, in the order of its checks. -/
theorem tencEffect : Obligations.TencEffect := by
  intro st i d
  rw [← tenc_word]
  exact ⟨decode_word (.tenc i) d, fun v k => exec_tenc_of_operands, exec_tenc_of_uninit,
    exec_tenc_of_index⟩

/-- Settles O35: the four outcomes of `TDEC`, in the order of its checks. -/
theorem tdecEffect : Obligations.TdecEffect := by
  intro st i d
  rw [← tdec_word]
  exact ⟨decode_word (.tdec i) d, fun v k => exec_tdec_of_operands, fun v k e => exec_tdec_of_spcheck,
    exec_tdec_of_uninit, exec_tdec_of_index⟩

/-- Settles O36: `TDEC i` finds in slot `i` what `TENC i` recorded, which passes `spcheck` and undoes the
encode. -/
theorem tencThenTdecRestores : Obligations.TencThenTdecRestores := by
  intro st t i ⟨_, _, hlen⟩ h hacc
  obtain ⟨v, k, hi, hv, hk⟩ := operands_of_tenc_accepted h hacc
  obtain rfl := Host.Outcome.next.inj ((exec_tenc_of_operands hi hv hk).symm.trans h)
  have hsp : (st.withTenc i.toNat v k).spAt i.toNat = (tenc (kindOf i.toNat) v k).2 :=
    spAt_withTenc (hlen.symm ▸ hi) v k
  rw [exec_tdec_of_operands (st := st.withTenc i.toNat v k) hi rfl hk (hsp ▸ spcheck_tenc _ v k),
    State.withTdec, hsp, tdec_tenc, hv]
  rfl

end Sys2Proof.Machine
end

section
/-! PROOFS. The block commands as runs of transforms, and their round trip (R187 to R190). -/

namespace Sys2Proof.Machine

/-! ## What the entry checks let through (R192) -/

/-- An order of `n` entries that passes the order check is a permutation of the slots (R186). -/
theorem perm_of_validPerm {n : Nat} {order : List Nat} (hlen : order.length = n)
    (h : validPerm n order = true) : order.Perm (List.range n) := by
  simp only [validPerm, List.all_eq_true, beq_iff_eq] at h
  have hsub : List.range n ⊆ order := fun i hi => List.count_pos_iff.1 (by rw [h i hi]; exact Nat.one_pos)
  exact ((List.subperm_of_subset List.nodup_range hsub).perm_of_length_le (by simp [hlen])).symm

section
variable {st t : State} {b : BlockOperands} {ord : List Nibble}

/-- The operands of a block command are the valid registers, and the order is a permutation of the slots. -/
theorem operands_of_blockOperands_ok (hb : st.blockOperands = .ok b) :
    ∃ ord, st.v = some b.v ∧ readFile st.N st.key = some b.keys ∧ readFile st.N st.ord = some ord
      ∧ b.order = ord.map BitVec.toNat ∧ (ord.map BitVec.toNat).Perm (List.range st.N) := by
  obtain ⟨v, keys, ord, hv, hkeys, hord, hvalid, hok⟩ | ⟨_, _, _, _, _, _, _, herr⟩ | ⟨_, herr⟩ :=
    blockOperands_cases st
  · obtain rfl := Except.ok.inj (hok.symm.trans hb)
    obtain ⟨hlen, -⟩ := (readFile_eq_some _ _ _).1 hord
    exact ⟨ord, hv, hkeys, hord, rfl, perm_of_validPerm (by simpa using hlen) hvalid⟩
  · exact absurd (herr.symm.trans hb) (by simp)
  · exact absurd (herr.symm.trans hb) (by simp)

/-- When all of `ORD` is given, it is the order of the block operands, and it names slots only. -/
theorem order_of_blockOperands_ok (hlen : st.ord.length = st.N) (hord : st.ord = ord.map some)
    (hb : st.blockOperands = .ok b) :
    b.order = ord.map BitVec.toNat ∧ ∀ id ∈ ord, id.toNat < st.N := by
  obtain ⟨ord', -, -, hread, horder, hperm⟩ := operands_of_blockOperands_ok hb
  obtain rfl : ord = ord' := by
    rw [hord, readFile_map_some (by simpa [hord] using hlen)] at hread
    exact Option.some.inj hread
  exact ⟨horder, fun id hid => List.mem_range.1 (hperm.mem_iff.1 (List.mem_map_of_mem hid))⟩

theorem keyAt_of_readFile {keys : List Word} {i : Nat} (hkeys : readFile st.N st.key = some keys)
    (hi : i < st.N) : st.keyAt i = some (keys.getD i 0) := by
  obtain ⟨hlen, hentry⟩ := (readFile_eq_some _ _ _).1 hkeys
  rw [List.getD_eq_getElem _ _ (hlen.symm ▸ hi)]
  exact hentry i (hlen.symm ▸ hi)

/-- An `ENC` that was accepted passed its entry checks. -/
theorem blockOperands_of_enc_accepted (h : exec .enc st = .next t) (hacc : t.Accepted) :
    ∃ b, st.blockOperands = .ok b := by
  obtain ⟨u, w, hu, -⟩ := performs_of_accepted h hacc
  cases hu with
  | reads hread => exact absurd hread Bool.false_ne_true
  | enc hb => exact ⟨_, hb⟩

/-- A `DEC` that was accepted passed its entry checks. -/
theorem blockOperands_of_dec_accepted (h : exec .dec st = .next t) (hacc : t.Accepted) :
    ∃ b, st.blockOperands = .ok b ∧ st.firstSpError = none := by
  obtain ⟨u, w, hu, -⟩ := performs_of_accepted h hacc
  cases hu with
  | reads hread => exact absurd hread Bool.false_ne_true
  | dec hb hsp => exact ⟨_, hb, hsp⟩

end

/-! ## Runs of `TENC` and of `TDEC` -/

/-- The state after `TENC` of each slot of a list: the last word in `V`, the recorded words in their slots, and
a response once a command was executed. -/
def State.withTencs (st : State) (keys : List Word) (ids : List Nibble) (w : Word) : State :=
  { st with
    v := some (encodeBlock keys (ids.map BitVec.toNat) w st.sp).1
    sp := (encodeBlock keys (ids.map BitVec.toNat) w st.sp).2
    rsp := if ids = [] then st.rsp else some { err := 0, rdata := 0 } }

/-- The state after `TDEC` of each slot of a list. -/
def State.withTdecs (st : State) (keys : List Word) (ids : List Nibble) (w : Word) : State :=
  { st with
    v := some (decodeSlots keys st.sp (ids.map BitVec.toNat) w)
    rsp := if ids = [] then st.rsp else some { err := 0, rdata := 0 } }

section
variable {st : State} {keys : List Word} {ids : List Nibble} {w : Word}

theorem execList_tencs (hkeys : readFile st.N st.key = some keys) (hids : ∀ id ∈ ids, id.toNat < st.N)
    (hv : st.v = some w) : execList (ids.map Instr.tenc) st = .next (st.withTencs keys ids w) := by
  induction ids generalizing st w with
  | nil => simp [State.withTencs, encodeBlock, ← hv]
  | cons id ids ih =>
    obtain ⟨hid, hids⟩ := List.forall_mem_cons.1 hids
    have hhead := exec_tenc_of_operands hid hv (keyAt_of_readFile hkeys hid)
    rw [List.map_cons, execList_cons_of_next hhead, ih (st := st.withTenc ..) hkeys hids rfl]
    simp [State.withTencs, State.withTenc, encodeBlock_cons]

theorem execList_tdecs (hkeys : readFile st.N st.key = some keys) (hids : ∀ id ∈ ids, id.toNat < st.N)
    (hsp : st.firstSpError = none) (hv : st.v = some w) :
    execList (ids.map Instr.tdec) st = .next (st.withTdecs keys ids w) := by
  induction ids generalizing st w with
  | nil => simp [State.withTdecs, decodeSlots, ← hv]
  | cons id ids ih =>
    obtain ⟨hid, hids⟩ := List.forall_mem_cons.1 hids
    have hcheck := (firstSpError_eq_none st).1 hsp _ hid
    have hhead := exec_tdec_of_operands hid hv (keyAt_of_readFile hkeys hid) hcheck
    rw [List.map_cons, execList_cons_of_next hhead, ih (st := st.withTdec ..) hkeys hids hsp rfl]
    simp [State.withTdecs, State.withTdec, decodeSlots, State.spAt]

end

/-- A CORE has a slot, so the order that fills `ORD` is not empty (R7). -/
theorem order_ne_nil {st : State} {ord : List Nibble} (hlen : st.ord.length = st.N)
    (hord : st.ord = ord.map some) : ord ≠ [] := by
  rintro rfl
  exact st.N_pos.ne' (by simpa [hord] using hlen.symm)

/-- Settles O45: both store what `encodeBlock` gives over the slots of `ORD`. -/
theorem encEqualsTencs : Obligations.EncEqualsTencs := by
  intro st t ord ⟨_, hlen, _⟩ hord h hacc
  obtain ⟨b, hb⟩ := blockOperands_of_enc_accepted h hacc
  obtain ⟨-, hv, hkeys, -, -, -⟩ := operands_of_blockOperands_ok hb
  obtain ⟨horder, hids⟩ := order_of_blockOperands_ok hlen hord hb
  rw [execList_tencs hkeys hids hv, ← h, exec_enc_of_operands hb, horder, State.withTencs,
    if_neg (order_ne_nil hlen hord)]

/-- Settles O46: both store what the decodes give over the slots of `ORD` in reverse. -/
theorem decEqualsTdecs : Obligations.DecEqualsTdecs := by
  intro st t ord ⟨_, hlen, _⟩ hord h hacc
  obtain ⟨b, hb, hsp⟩ := blockOperands_of_dec_accepted h hacc
  obtain ⟨-, hv, hkeys, -, -, -⟩ := operands_of_blockOperands_ok hb
  obtain ⟨horder, hids⟩ := order_of_blockOperands_ok hlen hord hb
  rw [execList_tdecs hkeys (fun id hid => hids id (List.mem_reverse.1 hid)) hsp hv, ← h,
    exec_dec_of_operands hb hsp, horder, decodeBlock, ← List.map_reverse, State.withTdecs,
    if_neg (mt List.reverse_eq_nil_iff.1 (order_ne_nil hlen hord))]

/-! ## `DEC` after `ENC` (R190) -/

/-- A permutation of the slots names none twice and none outside the file, so its decode undoes its encode. -/
theorem decodeBlock_encodeBlock_of_perm {n : Nat} {keys : List Word} {order : List Nat} {w : Word}
    {sps : List (List Word)} (hlen : sps.length = n) (hperm : order.Perm (List.range n)) :
    decodeBlock keys order (encodeBlock keys order w sps).2 (encodeBlock keys order w sps).1 = w :=
  decodeBlock_encodeBlock (hperm.nodup_iff.2 List.nodup_range)
    fun _ hid => hlen.symm ▸ List.mem_range.1 (hperm.mem_iff.1 hid)

/-- Settles O47: the later state has the operands of the `ENC` but for `V`, and every slot holds what the `ENC`
recorded. -/
theorem encThenDecRestoresBlock : Obligations.EncThenDecRestoresBlock := by
  intro st t u ⟨_, _, hlen⟩ h hacc hcfg huv hukey huord husp
  obtain ⟨b, hb⟩ := blockOperands_of_enc_accepted h hacc
  obtain ⟨ord, hv, hkeys, hord, horder, hperm⟩ := operands_of_blockOperands_ok hb
  obtain rfl := Host.Outcome.next.inj ((exec_enc_of_operands hb).symm.trans h)
  rw [horder] at huv husp
  have hN : u.N = st.N := congrArg Config.N hcfg
  have hub := blockOperands_eq_ok huv (by rw [hN, hukey]; exact hkeys) (by rw [hN, huord]; exact hord)
    (by rwa [hN])
  have hchecks : u.firstSpError = none := by
    rw [State.firstSpError, hN]
    simp only [State.spAt, husp]
    exact firstSpError_encodeBlock hlen hperm
  rw [exec_dec_of_operands hub hchecks, husp, decodeBlock_encodeBlock_of_perm hlen hperm, hv]

end Sys2Proof.Machine
end

section
/-! PROOFS. The order selector position by position, and why a selected order always passes the order check
(R171 to R178, R256). -/

namespace Sys2Proof.Machine

/-! ## The parts of the selector (R171 to R175) -/

/-- Settles O37: `first` and an arrangement of the other indices are all indices. -/
theorem selectOrderIsPermutation : Obligations.SelectOrderIsPermutation :=
  fun lsb c _ => selectOrder_perm lsb c

/-- The values of the first transform that R171 names: in range, and exact for 4, 1 and 16 slots. -/
theorem firstTransform_values (c : Nibble) (n : Nat) :
    (1 ≤ n → firstTransform c n ≤ n - 1) ∧ firstTransform c 4 = c.toNat / 4 ∧ firstTransform c 1 = 0
      ∧ firstTransform c 16 = c.toNat := by
  have hc : c.toNat < 16 := c.isLt
  refine ⟨fun hn => Nat.le_sub_one_of_lt (firstTransform_lt c hn), ?_⟩
  unfold firstTransform
  omega

/-- The pattern field is the two bits from `PATTERN_LSB` on (R172). -/
theorem patternOf_eq_extractLsb' (lsb : PatternLsb) (c : Nibble) :
    patternOf lsb c = c.extractLsb' lsb.pos 2 := by
  ext k hk
  simp [patternOf]

/-- The remaining list is all indices with position `first` left out (R173). -/
theorem remainingOf_eq_eraseIdx {first n : Nat} (h : first < n) :
    remainingOf first n = (List.range n).eraseIdx first := by
  have hlen : first < (List.range n).length := by simpa using h
  have herase := List.nodup_range.erase_getElem first hlen
  rw [List.getElem_range, List.nodup_range.erase_eq_filter] at herase
  rw [← herase]
  exact List.filter_congr fun i _ => Bool.eq_iff_iff.2 (by simp)

theorem remainingOf_length {first n : Nat} (h : first < n) : (remainingOf first n).length = n - 1 := by
  rw [remainingOf_eq_eraseIdx h, List.length_eraseIdx_of_lt (by simpa using h), List.length_range]

/-- Behind `first` the remaining indices are shifted by one (R173). -/
theorem remainingOf_getElem? {first n j : Nat} (h : first < n) (hj : j < n - 1) :
    (remainingOf first n)[j]? = some (if j < first then j else j + 1) := by
  rw [remainingOf_eq_eraseIdx h, List.getElem?_eraseIdx]
  split
  · exact List.getElem?_range (by omega)
  · exact List.getElem?_range (by omega)

theorem rotateLeftOne_eq_rotate (xs : List Nat) : rotateLeftOne xs = xs.rotate 1 := by
  cases xs <;> simp [rotateLeftOne]

theorem rotateRightOne_eq_rotate (xs : List Nat) :
    rotateRightOne xs = xs.rotate (xs.length - 1 % xs.length) := by
  rw [rotateRightOne, rotateLeftOne_eq_rotate, List.reverse_rotate, List.reverse_reverse,
    List.length_reverse]

theorem rotateLeftOne_getElem? {xs : List Nat} {j : Nat} (hj : j < xs.length) :
    (rotateLeftOne xs)[j]? = xs[(j + 1) % xs.length]? := by
  rw [rotateLeftOne_eq_rotate, List.getElem?_rotate hj]

theorem rotateRightOne_getElem? {xs : List Nat} {j : Nat} (hj : j < xs.length) :
    (rotateRightOne xs)[j]? = xs[(j + xs.length - 1) % xs.length]? := by
  have hindex : (j + (xs.length - 1 % xs.length)) % xs.length = (j + xs.length - 1) % xs.length := by
    obtain hone | hmany := Nat.lt_or_ge 1 xs.length
    · rw [Nat.mod_eq_of_lt hone, Nat.add_sub_assoc hone.le]
    · rw [show xs.length = 1 by omega, Nat.mod_one, Nat.mod_one]
  rw [rotateRightOne_eq_rotate, List.getElem?_rotate hj, hindex]

/-- Settles O38: the formulas by the definitions, the remaining list as one index left out of all, and the
rotations as the library's. -/
theorem orderSelectorParts : Obligations.OrderSelectorParts :=
  ⟨fun c n => ⟨rfl, firstTransform_values c n⟩,
    fun c => ⟨patternOf_eq_extractLsb' .two c, patternOf_eq_extractLsb' .zero c⟩,
    fun _ _ h => ⟨remainingOf_length h, fun _ => remainingOf_getElem? h⟩,
    fun r pattern => (arrange_perm pattern r).length_eq,
    fun _ _ hj => ⟨rfl, List.getElem?_reverse hj, rotateLeftOne_getElem? hj, rotateRightOne_getElem? hj⟩,
    fun _ _ _ => rfl⟩

/-! ## `SELORD` (R178) -/

theorem selord_word (c : Nibble) : (Instr.selord c).word = 0x40#8 ++ c ++ 0#4 :=
  (append_idx_eq_or 0x40#8 c).symm

/-- Settles O39: `SELORD` has no check after decode, so its effect is its definition. -/
theorem selordEffect : Obligations.SelordEffect := by
  intro st c d
  rw [← selord_word]
  exact ⟨decode_word (.selord c) d, rfl⟩

/-! ## Which commands can raise which error (R259) -/

/-- The error codes a command's checks can raise, by its row (R259). -/
def Mnemonic.raises : Mnemonic → List ErrCode
  | .nop | .rdst | .clrerr | .srst | .wrp | .wrq | .wrs | .wrv | .selord => []
  | .rdslot | .wrkey => [.index]
  | .wrord => [.index, .operand]
  | .wrsp => [.index, .spArity]
  | .rdp | .rdq | .rds | .rdv | .keygen => [.uninit]
  | .rdkey | .rdord | .rdsp | .kstep | .tenc => [.index, .uninit]
  | .tdec => [.index, .uninit, .spArity, .spRange]
  | .enc => [.uninit, .order]
  | .dec => [.uninit, .order, .spArity, .spRange]

/-- A meaning's answer, if it gives one, does not report `e`. -/
def Avoids (e : ErrCode) (result : Result) : Prop :=
  ∀ t r, result = .next t → t.rsp = some r → r.err ≠ e.code

section
variable {e : ErrCode} {st : State}

theorem avoids_respond (st : State) (w : Word) : Avoids e (.next (st.respond w)) := by
  rintro t r ⟨⟩ ⟨⟩
  exact e.code_ne_zero.symm

theorem avoids_raise {f : ErrCode} (h : f ≠ e) (cmd : CmdWord) : Avoids e (.next (st.raise f cmd)) := by
  rintro t r ⟨⟩ ⟨⟩
  exact fun hcode => h (ErrCode.code_injective hcode)

theorem avoids_readFlagged (h : ErrCode.uninit ≠ e) (r : Flagged Word) (i : Instr) :
    Avoids e (readFlagged st r i) := by
  cases r with
  | none => exact avoids_raise h _
  | some w => exact avoids_respond st w

theorem avoids_indexTest {idx : Nibble} {result : Result} {i : Instr} (h : ErrCode.index ≠ e)
    (hpassed : Avoids e result) : Avoids e (if st.hasIndex idx then result else fail st .index i) := by
  split
  · exact hpassed
  · exact avoids_raise h _

/-- `spcheck` fails by its arity or by a count out of range (R155). -/
theorem spcheck_ne (harity : ErrCode.spArity ≠ e) (hrange : ErrCode.spRange ≠ e) {kind : Kind}
    {sp : List Word} {f : ErrCode} (h : spcheck kind sp = some f) : f ≠ e := by
  obtain ⟨-, h'⟩ | ⟨-, h'⟩ | ⟨-, h'⟩ := spcheck_cases kind sp
  · exact Option.some.inj (h'.symm.trans h) ▸ harity
  · exact Option.some.inj (h'.symm.trans h) ▸ hrange
  · exact nomatch h'.symm.trans h

theorem tdec_avoids {i : Nibble} (hindex : ErrCode.index ≠ e) (huninit : ErrCode.uninit ≠ e)
    (harity : ErrCode.spArity ≠ e) (hrange : ErrCode.spRange ≠ e) : Avoids e (exec (.tdec i) st) := by
  refine avoids_indexTest hindex ?_
  split
  · split
    · exact avoids_respond _ 0
    · next h => exact avoids_raise (spcheck_ne harity hrange h) _
  · exact avoids_raise huninit _

/-- `ENC` reports what its first two entry checks report (R192). -/
theorem enc_avoids (hoperands : st.blockOperands ≠ .error e) : Avoids e (exec .enc st) := by
  rw [exec, execEnc]
  split
  · next f hb =>
    have hne : f ≠ e := fun heq => hoperands (heq ▸ hb)
    exact avoids_raise hne _
  · exact avoids_respond _ 0

/-- `DEC` reports what its entry checks report, the third of them by `spcheck` (R192). -/
theorem dec_avoids (hoperands : st.blockOperands ≠ .error e) (harity : ErrCode.spArity ≠ e)
    (hrange : ErrCode.spRange ≠ e) : Avoids e (exec .dec st) := by
  rw [exec, execDec]
  split
  · next f hb =>
    have hne : f ≠ e := fun heq => hoperands (heq ▸ hb)
    exact avoids_raise hne _
  · split
    · next hsp =>
      obtain ⟨_, -, h⟩ := List.exists_of_findSome?_eq_some hsp
      exact avoids_raise (spcheck_ne harity hrange h) _
    · exact avoids_respond _ 0

/-- The first two entry checks report `E_UNINIT` or `E_ORDER` (R192). -/
theorem blockOperands_ne_error (huninit : ErrCode.uninit ≠ e) (horder : ErrCode.order ≠ e) :
    st.blockOperands ≠ .error e := by
  intro hb
  obtain ⟨_, _, _, -, -, -, -, h⟩ | ⟨_, _, _, -, -, -, -, h⟩ | ⟨-, h⟩ := blockOperands_cases st
  · exact nomatch h.symm.trans hb
  · exact horder (Except.error.inj (h.symm.trans hb))
  · exact huninit (Except.error.inj (h.symm.trans hb))

/-- A command reports no error that its row of R259 does not list. -/
theorem exec_avoids {i : Instr} (h : (Mnemonic.raises i.mnemonic).contains e = false) :
    Avoids e (exec i st) := by
  have listed : ∀ f, (Mnemonic.raises i.mnemonic).contains f = true → f ≠ e := fun f hf heq =>
    Bool.false_ne_true (h.symm.trans (heq ▸ hf))
  cases i with
  | nop | clrerr | srst | wrp | wrq | wrs | wrv | selord => exact avoids_respond _ 0
  | rdst => exact avoids_respond st st.status
  | rdslot => exact avoids_indexTest (listed _ rfl) (avoids_respond st _)
  | wrkey => exact avoids_indexTest (listed _ rfl) (avoids_respond _ 0)
  | rdp | rdq | rds | rdv => exact avoids_readFlagged (listed _ rfl) _ _
  | rdkey | rdord | rdsp =>
    exact avoids_indexTest (listed _ rfl) (avoids_readFlagged (listed _ rfl) _ _)
  | wrord | wrsp | kstep | tenc =>
    refine avoids_indexTest (listed _ rfl) ?_
    split
    · exact avoids_respond _ 0
    · exact avoids_raise (listed _ rfl) _
  | keygen =>
    rw [exec, execKeygen]
    split
    · exact avoids_respond _ 0
    · exact avoids_raise (listed _ rfl) _
  | tdec => exact tdec_avoids (listed _ rfl) (listed _ rfl) (listed _ rfl) (listed _ rfl)
  | enc => exact enc_avoids (blockOperands_ne_error (listed _ rfl) (listed _ rfl))
  | dec =>
    exact dec_avoids (blockOperands_ne_error (listed _ rfl) (listed _ rfl)) (listed _ rfl)
      (listed _ rfl)

end

/-! ## A selected order passes the order check (R256) -/

/-- Whenever every flag of `ORD` is 1, its entries pass the order check: what holds from a `SELORD` on until a
`WRORD`. `SRST` clears the flags and so keeps it. -/
def State.OrderSound (st : State) : Prop :=
  ∀ ord, readFile st.N st.ord = some ord → validPerm st.N (ord.map BitVec.toNat) = true

theorem State.orderSound_of_selected {st : State} {c : Nibble}
    (h : st.ord = (selectOrder st.cfg.patternLsb c st.N).map (fun i => some (BitVec.ofNat 4 i))) :
    st.OrderSound := by
  intro ord hord
  rw [h, readFile_selectOrder] at hord
  obtain rfl := Option.some.inj hord
  rw [selectOrder_toNat _ c st.N_pos st.N_le_sixteen]
  exact validPerm_of_perm (selectOrder_perm _ c st.N_pos)

theorem State.orderSound_clearAll (st : State) : st.clearAll.OrderSound := by
  have hnone : readFile st.N st.clearAll.ord = none :=
    (readFile_eq_none _ _).2 ⟨0, st.N_pos, readEntry_replicate_none _ 0⟩
  intro ord hord
  exact nomatch hnone.symm.trans hord

section
variable {st : State} {i : Instr}

theorem State.OrderSound.blockOperands_ne (h : st.OrderSound) : st.blockOperands ≠ .error .order := by
  intro hb
  obtain ⟨_, _, _, -, -, -, -, hok⟩ | ⟨_, _, ord, -, -, hord, hinvalid, -⟩ | ⟨-, huninit⟩ :=
    blockOperands_cases st
  · exact nomatch hok.symm.trans hb
  · exact Bool.false_ne_true (hinvalid.symm.trans (h ord hord))
  · exact nomatch huninit.symm.trans hb

/-- With a sound order no command reports `E_ORDER`: only `ENC` and `DEC` can, by the order check. -/
theorem State.OrderSound.exec_avoids_order (h : st.OrderSound) : Avoids .order (exec i st) := by
  cases i with
  | enc => exact enc_avoids h.blockOperands_ne
  | dec => exact dec_avoids h.blockOperands_ne nofun nofun
  | _ => exact exec_avoids rfl

/-- Only `WRORD` writes entries of `ORD` that nothing has checked (R45). -/
theorem Performs.orderSound {u : State} (hu : Performs st i u) (hi : ∀ p d, i ≠ .wrord p d)
    (h : st.OrderSound) : u.OrderSound := by
  cases hu with
  | wrord => exact absurd rfl (hi _ _)
  | selord c => exact State.orderSound_of_selected (c := c) rfl
  | srst => exact st.orderSound_clearAll
  | _ => exact h

theorem State.OrderSound.exec_keeps {t : State} (h : st.OrderSound) (hi : ∀ p d, i ≠ .wrord p d)
    (hexec : exec i st = .next t) : t.OrderSound := by
  obtain ⟨e, rfl⟩ | ⟨u, w, hu, rfl⟩ := exec_cases hexec
  · exact h
  · exact hu.orderSound hi h

/-- A word that is no `WRORD` keeps a sound order, and is not answered with `E_ORDER`. -/
theorem State.OrderSound.execute_keeps {c : Command} (h : st.OrderSound)
    (hc : ∀ p d, decode c ≠ .ok (.wrord p d)) :
    ∃ t, execute st c = .next t ∧ t.OrderSound ∧ ∀ r, t.rsp = some r → r.err ≠ 5 := by
  obtain ⟨i, hi, hexec⟩ | ⟨-, -, hraise⟩ := execute_cases st c
  · obtain ⟨t, r, ht, -⟩ := exec_answers st i
    have hwrord : ∀ p d, i ≠ .wrord p d := fun p d heq => hc p d (heq ▸ hi)
    exact ⟨t, hexec.trans ht, h.exec_keeps hwrord ht, fun r => h.exec_avoids_order t r ht⟩
  · exact ⟨_, hraise, h, fun r => avoids_raise (e := .order) (by decide) c.cmd _ r rfl⟩

theorem State.OrderSound.executions_avoid_order {cs : List Command} (h : st.OrderSound)
    (hcs : ∀ c ∈ cs, ∀ p d, decode c ≠ .ok (.wrord p d)) :
    ∀ u ∈ executions st cs, ∀ r, u.rsp = some r → r.err ≠ 5 := by
  induction cs generalizing st with
  | nil => exact fun _ hu => absurd hu List.not_mem_nil
  | cons c cs ih =>
    obtain ⟨hc, hcs⟩ := List.forall_mem_cons.1 hcs
    obtain ⟨t, ht, hsound, hanswer⟩ := h.execute_keeps hc
    rw [executions_cons_of_next ht]
    exact List.forall_mem_cons.2 ⟨hanswer, ih hsound hcs⟩

end

/-- Settles O40: the invariant with `CWV = 1` makes the order sound, and so does `SELORD`. -/
theorem selordMakesOrderValid : Obligations.SelordMakesOrderValid := by
  constructor
  · intro st t i r ⟨_, _, _, _, hselected⟩ hcwv hexec
    exact (State.orderSound_of_selected (hselected hcwv)).exec_avoids_order t r hexec
  · intro st t c cs hexec hcs
    obtain rfl := Host.Outcome.next.inj ((selordEffect st c 0).2.symm.trans hexec)
    exact (State.orderSound_of_selected (c := c) rfl).executions_avoid_order hcs

end Sys2Proof.Machine
end

section
/-! PROOFS. The orchestrator: order validity as a permutation, the entry checks of `ENC` and `DEC` on the
registers, and what a block command's result depends on (R186 to R194). -/

namespace Sys2Proof.Machine

/-! ## Order validity (R186) -/

theorem validPerm_iff_count (n : Nat) (order : List Nat) :
    validPerm n order = true ↔ ∀ i, i < n → order.count i = 1 := by
  simp [validPerm]

theorem validPerm_iff_perm {n : Nat} {order : List Nat} (hlen : order.length = n) :
    validPerm n order = true ↔ order.Perm (List.range n) :=
  ⟨perm_of_validPerm hlen, validPerm_of_perm⟩

theorem perm_range_iff_lt_and_nodup {n : Nat} {order : List Nat} (hlen : order.length = n) :
    order.Perm (List.range n) ↔ (∀ x ∈ order, x < n) ∧ order.Nodup := by
  constructor
  · intro h
    exact ⟨fun x hx => List.mem_range.1 (h.mem_iff.1 hx), h.nodup_iff.2 List.nodup_range⟩
  · rintro ⟨hlt, hnodup⟩
    have hsub : order ⊆ List.range n := fun x hx => List.mem_range.2 (hlt x hx)
    exact (List.subperm_of_subset hnodup hsub).perm_of_length_le (by simp [hlen])

/-- `n` positions that hold every value below `n` hold each of them once, and nothing else. -/
theorem perm_range_iff_existsUnique {n : Nat} {order : List Nat} (hlen : order.length = n) :
    order.Perm (List.range n) ↔ ∀ i, i < n → ∃! p : Nat, order[p]? = some i := by
  constructor
  · intro h i hi
    obtain ⟨p, hp⟩ := List.mem_iff_getElem?.1 (h.mem_iff.2 (List.mem_range.2 hi))
    have hlt : p < order.length := (List.getElem?_eq_some_iff.1 hp).1
    have hnodup : order.Nodup := h.nodup_iff.2 List.nodup_range
    exact ⟨p, hp, fun p' hp' => ((List.getElem?_inj hlt hnodup).1 (hp.trans hp'.symm)).symm⟩
  · intro h
    have hsub : List.range n ⊆ order := fun i hi =>
      List.mem_iff_getElem?.2 (h i (List.mem_range.1 hi)).exists
    exact ((List.subperm_of_subset List.nodup_range hsub).perm_of_length_le (by simp [hlen])).symm

/-- Settles O41: each reading of R186 is that of a permutation. -/
theorem validPermMeaning : Obligations.ValidPermMeaning := fun n order hlen =>
  ⟨validPerm_iff_count n order,
    (validPerm_iff_perm hlen).trans (perm_range_iff_lt_and_nodup hlen),
    validPerm_iff_perm hlen⟩

/-! ## The block functions (R189, R191) -/

theorem decodeBlock_append_singleton (keys : List Word) (id : Nat) (order : List Nat)
    (sps : List (List Word)) (w : Word) :
    decodeBlock keys (order ++ [id]) sps w =
      decodeBlock keys order sps (tdec (kindOf id) w (keys.getD id 0) (sps.getD id [])) := by
  rw [decodeBlock, List.reverse_append]
  rfl

/-- Settles O42: the recursion of the two block functions over the order, from its first slot and from its
last. -/
theorem blockFunctionsUnfold : Obligations.BlockFunctionsUnfold := fun keys id order w sps =>
  ⟨rfl, encodeBlock_cons keys id order w sps, rfl, decodeBlock_append_singleton keys id order sps w⟩

/-- The word that encoding a block gives does not depend on the side parameters it found (R193). -/
theorem encodeBlock_fst_eq (keys : List Word) (order : List Nat) (w : Word) (sps sps' : List (List Word)) :
    (encodeBlock keys order w sps).1 = (encodeBlock keys order w sps').1 := by
  induction order generalizing w sps sps' with
  | nil => rfl
  | cons id order ih => exact ih _ _ _

/-- The side parameters that encoding leaves in each of `n` slots. An encode records a function of the key
(R149), so any word, here 0, gives them. -/
def recordedSps (keys : List Word) (n : Nat) : List (List Word) :=
  (List.range n).map fun i => (tenc (kindOf i) 0 (keys.getD i 0)).2

/-- Encoding over all slots leaves side parameters that depend on the keys alone: not on the word, the order
or what the slots held (R194). -/
theorem encodeBlock_snd_eq_recordedSps {n : Nat} {keys : List Word} {order : List Nat} {w : Word}
    {sps : List (List Word)} (hlen : sps.length = n) (hperm : order.Perm (List.range n)) :
    (encodeBlock keys order w sps).2 = recordedSps keys n := by
  have hmem : ∀ id, id ∈ order ↔ id < n := fun id => hperm.mem_iff.trans List.mem_range
  refine List.ext_getElem (by simp [recordedSps, hlen]) fun i hi _ => ?_
  have hin : i < n := by simpa [hlen] using hi
  have hsp := encodeBlock_sp keys order w sps (fun id hid => hlen.symm ▸ (hmem id).1 hid) i
  rw [if_pos ((hmem i).2 hin), List.getD_eq_getElem _ _ hi] at hsp
  simpa [recordedSps] using hsp

/-! ## The entry checks on the registers (R192) -/

/-- A file read as a whole has the values that its entries have one by one. -/
theorem readFile_eq_some_iff_getElem? {α : Type} {n : Nat} {file : List (Flagged α)} {values : List α} :
    readFile n file = some values ↔ values.length = n ∧ ∀ i, i < n → readEntry file i = values[i]? := by
  rw [readFile_eq_some]
  refine and_congr_right fun hlen => ?_
  subst hlen
  exact forall₂_congr fun i hi => by rw [List.getElem?_eq_getElem hi]

section
variable {st : State} {v : Word} {keys : List Word} {ord : List Nibble} {e : ErrCode}

theorem order_length_of_readFile (hord : readFile st.N st.ord = some ord) :
    (ord.map BitVec.toNat).length = st.N := by
  simpa using ((readFile_eq_some _ _ _).1 hord).1

/-- Step 1 fails when `V`, a key or an entry of the order is not valid. -/
theorem blockOperands_eq_uninit
    (h : st.v = none ∨ (∃ i, i < st.N ∧ st.keyAt i = none) ∨ (∃ p, p < st.N ∧ st.ordAt p = none)) :
    st.blockOperands = .error .uninit := by
  have hfiles : st.v = none ∨ readFile st.N st.key = none ∨ readFile st.N st.ord = none :=
    h.imp_right (Or.imp (readFile_eq_none _ _).2 (readFile_eq_none _ _).2)
  obtain ⟨_, _, _, hv, hkeys, hord, -⟩ | ⟨_, _, _, hv, hkeys, hord, -⟩ | ⟨-, huninit⟩ :=
    blockOperands_cases st
  · simp [hv, hkeys, hord] at hfiles
  · simp [hv, hkeys, hord] at hfiles
  · exact huninit

/-- Step 2 fails when everything is valid and the order is not a permutation. -/
theorem blockOperands_eq_order (hv : st.v = some v) (hkeys : readFile st.N st.key = some keys)
    (hord : readFile st.N st.ord = some ord) (hperm : ¬ (ord.map BitVec.toNat).Perm (List.range st.N)) :
    st.blockOperands = .error .order := by
  have hinvalid := Bool.eq_false_iff.2 (mt (validPerm_iff_perm (order_length_of_readFile hord)).1 hperm)
  simp [State.blockOperands, hv, hkeys, hord, hinvalid]

/-- A slot stands at a position of `ORD` when the order read out names it there: the slots of a CORE fit the
4-bit entries (R35). -/
theorem order_getElem?_eq_some_iff (hord : readFile st.N st.ord = some ord) {i : Nat} (hi : i < st.N)
    (p : Nat) :
    (ord.map BitVec.toNat)[p]? = some i ↔ p < st.N ∧ st.ordAt p = some (BitVec.ofNat 4 i) := by
  obtain ⟨hlen, hentry⟩ := readFile_eq_some_iff_getElem?.1 hord
  have h16 : i < 16 := hi.trans_le st.N_le_sixteen
  have hvalue : ∀ o : Nibble, o.toNat = i ↔ o = BitVec.ofNat 4 i := fun o => by
    rw [← BitVec.toNat_inj, BitVec.toNat_ofNat, Nat.mod_eq_of_lt h16]
  by_cases hp : p < st.N
  · simp [State.ordAt, hentry p hp, hlen, hp, hvalue]
  · simp [hlen, hp]

/-- The order check as R192 states it, over the entries of `ORD`. -/
theorem order_perm_iff_existsUnique (hord : readFile st.N st.ord = some ord) :
    (ord.map BitVec.toNat).Perm (List.range st.N) ↔
      ∀ i, i < st.N → ∃! p, p < st.N ∧ st.ordAt p = some (BitVec.ofNat 4 i) := by
  rw [perm_range_iff_existsUnique (order_length_of_readFile hord)]
  exact forall₂_congr fun i hi => existsUnique_congr fun p => order_getElem?_eq_some_iff hord hi p

/-- Step 3 reports the first slot, in ascending slot order, whose `spcheck` fails. -/
theorem firstSpError_eq_some {i : Nat} (hi : i < st.N)
    (hbefore : ∀ j, j < i → spcheck (kindOf j) (st.spAt j) = none)
    (herr : spcheck (kindOf i) (st.spAt i) = some e) : st.firstSpError = some e := by
  obtain ⟨k, hk⟩ := Nat.exists_eq_add_of_lt hi
  have hnone : (List.range i).findSome? (fun j => spcheck (kindOf j) (st.spAt j)) = none := by
    simpa using hbefore
  rw [State.firstSpError, hk, Nat.add_assoc, List.range_add, List.findSome?_append, hnone,
    List.range_succ_eq_map]
  simp [herr]

/-! ## The two commands (R187, R188) -/

theorem enc_word : Instr.enc.word = 0x5000 := rfl

theorem dec_word : Instr.dec.word = 0x5100 := rfl

theorem exec_enc_of_error (hb : st.blockOperands = .error e) :
    exec .enc st = .next (st.raise e 0x5000) := by
  simp [exec, execEnc, hb, enc_word]

theorem exec_dec_of_error (hb : st.blockOperands = .error e) :
    exec .dec st = .next (st.raise e 0x5100) := by
  simp [exec, execDec, hb, dec_word]

theorem exec_dec_of_firstSpError {b : BlockOperands} (hb : st.blockOperands = .ok b)
    (hsp : st.firstSpError = some e) : exec .dec st = .next (st.raise e 0x5100) := by
  simp [exec, execDec, hb, hsp, dec_word]

/-- The entry checks pass on registers that are valid one by one, with a permutation as the order. -/
theorem blockOperands_eq_ok_of_entries (hv : st.v = some v) (hkeylen : keys.length = st.N)
    (hkeys : ∀ i, i < st.N → st.keyAt i = keys[i]?) (hordlen : ord.length = st.N)
    (hord : ∀ p, p < st.N → st.ordAt p = ord[p]?)
    (hperm : (ord.map BitVec.toNat).Perm (List.range st.N)) :
    st.blockOperands = .ok { v := v, keys := keys, order := ord.map BitVec.toNat } :=
  blockOperands_eq_ok hv (readFile_eq_some_iff_getElem?.2 ⟨hkeylen, hkeys⟩)
    (readFile_eq_some_iff_getElem?.2 ⟨hordlen, hord⟩) hperm

/-- When step 1 passes, the operands are there to read. -/
theorem exists_operands_of_valid (hv : st.v ≠ none) (hkeys : ∀ i, i < st.N → st.keyAt i ≠ none)
    (hord : ∀ p, p < st.N → st.ordAt p ≠ none) :
    ∃ v keys ord, st.v = some v ∧ readFile st.N st.key = some keys ∧ readFile st.N st.ord = some ord := by
  obtain ⟨v, hv⟩ := Option.ne_none_iff_exists'.1 hv
  obtain ⟨keys, hkeys⟩ := exists_readFile hkeys
  obtain ⟨ord, hord⟩ := exists_readFile hord
  exact ⟨v, keys, ord, hv, hkeys, hord⟩

/-- What an accepted `ENC` leaves in `V` and in the side parameters, from the registers it read. -/
theorem result_of_enc_accepted {t : State} (hlen : st.sp.length = st.N) (h : exec .enc st = .next t)
    (hacc : t.Accepted) :
    ∃ v keys ord, st.v = some v ∧ readFile st.N st.key = some keys ∧ readFile st.N st.ord = some ord
      ∧ t.v = some (encodeBlock keys (ord.map BitVec.toNat) v st.sp).1 ∧ t.sp = recordedSps keys st.N := by
  obtain ⟨b, hb⟩ := blockOperands_of_enc_accepted h hacc
  obtain ⟨ord, hv, hkeys, hord, horder, hperm⟩ := operands_of_blockOperands_ok hb
  obtain rfl := Host.Outcome.next.inj ((exec_enc_of_operands hb).symm.trans h)
  rw [← horder] at hperm
  exact ⟨b.v, b.keys, ord, hv, hkeys, hord, by rw [horder], encodeBlock_snd_eq_recordedSps hlen hperm⟩

end

/-- Settles O43: the three steps in order, each as the answer of the check that fails there. -/
theorem blockEntryChecks : Obligations.BlockEntryChecks := by
  intro st
  refine ⟨fun hmissing => ?_, fun hv hkeys hord hnot => ?_, fun hv hkeys hord hunique => ?_⟩
  · have hb := blockOperands_eq_uninit hmissing
    exact ⟨exec_enc_of_error hb, exec_dec_of_error hb⟩
  · obtain ⟨v, keys, ord, hv, hkeys, hord⟩ := exists_operands_of_valid hv hkeys hord
    have hb := blockOperands_eq_order hv hkeys hord (mt (order_perm_iff_existsUnique hord).1 hnot)
    exact ⟨exec_enc_of_error hb, exec_dec_of_error hb⟩
  · obtain ⟨v, keys, ord, hv, hkeys, hord⟩ := exists_operands_of_valid hv hkeys hord
    have hb := blockOperands_eq_ok hv hkeys hord ((order_perm_iff_existsUnique hord).2 hunique)
    exact ⟨⟨_, exec_enc_of_operands hb, rfl⟩, fun i e hi hbefore herr =>
      exec_dec_of_firstSpError hb (firstSpError_eq_some hi hbefore herr)⟩

/-- Settles O44: registers valid one by one, with a permutation as the order, are operands that pass the entry
checks. -/
theorem encDecEffect : Obligations.EncDecEffect := by
  intro st d v keys ord
  refine ⟨decode_word .enc d, fun hv hkeylen hkeys hordlen hord hperm => ?_,
    decode_word .dec d, fun hv hkeylen hkeys hordlen hord hperm hsp => ?_⟩
  · exact exec_enc_of_operands (blockOperands_eq_ok_of_entries hv hkeylen hkeys hordlen hord hperm)
  · exact exec_dec_of_operands (blockOperands_eq_ok_of_entries hv hkeylen hkeys hordlen hord hperm)
      ((firstSpError_eq_none st).2 hsp)

/-- Settles O48: equal key files read as equal keys, which fix the side parameters; the word of a block does not
depend on the side parameters found. -/
theorem encDependsOnOperandsOnly : Obligations.EncDependsOnOperandsOnly := by
  intro st₁ st₂ t₁ t₂ ⟨_, _, hlen₁⟩ ⟨_, _, hlen₂⟩ hcfg hkey h₁ h₂ hacc₁ hacc₂
  obtain ⟨v₁, keys₁, ord₁, hv₁, hkeys₁, hord₁, htv₁, htsp₁⟩ := result_of_enc_accepted hlen₁ h₁ hacc₁
  obtain ⟨v₂, keys₂, ord₂, hv₂, hkeys₂, hord₂, htv₂, htsp₂⟩ := result_of_enc_accepted hlen₂ h₂ hacc₂
  have hN : st₁.N = st₂.N := congrArg Config.N hcfg
  rw [hN] at hkeys₁ hord₁ htsp₁
  obtain rfl : keys₁ = keys₂ := Option.some.inj (hkeys₁.symm.trans (hkey ▸ hkeys₂))
  refine ⟨htsp₁.trans htsp₂.symm, fun hv hord => ?_⟩
  obtain rfl : v₁ = v₂ := Option.some.inj (hv₁.symm.trans (hv.trans hv₂))
  obtain rfl : ord₁ = ord₂ := Option.some.inj (hord₁.symm.trans (hord ▸ hord₂))
  rw [htv₁, htv₂, encodeBlock_fst_eq]

end Sys2Proof.Machine
end

section
/-! PROOFS. The register access commands: each outcome of a write and of a read, in the order of its checks
(R200 to R214). -/

namespace Sys2Proof.Machine

/-! ## The words of format S (R94) -/

/-- A word of format S: `OP`, `IDX`, three zeros and `SEL`. -/
theorem append_idx_sel_eq_or (op : BitVec 8) (i : Nibble) (j : BitVec 1) :
    op ++ i ++ 0#3 ++ j = op.setWidth 16 <<< 8 ||| i.setWidth 16 <<< 4 ||| j.setWidth 16 := by
  ext k hk
  simp only [BitVec.getElem_append, BitVec.getElem_or, BitVec.getElem_shiftLeft, BitVec.getElem_setWidth]
  grind

/-- The reserved zeros and `SEL = 1`, read as one digit. -/
theorem append_idx_one (op : BitVec 8) (i : Nibble) : op ++ i ++ 1#4 = op ++ i ++ 0#3 ++ 1#1 := by
  rw [BitVec.append_assoc (x₃ := 1#1)]
  rfl

/-! ## The shared checks -/

section
variable {st : State} {instr : Instr} {r : Flagged Word}

/-- Behind a passed index test stands the rest of the command (R253). -/
theorem exec_of_index_lt {idx : Nibble} {result : Result}
    (h : exec instr st = if st.hasIndex idx then result else fail st .index instr) (hi : idx.toNat < st.N) :
    exec instr st = result :=
  h.trans (if_pos (by simpa using hi))

/-- The index test comes first, so nothing else matters when it fails (R253). -/
theorem exec_of_index_le {idx : Nibble} {result : Result}
    (h : exec instr st = if st.hasIndex idx then result else fail st .index instr) (hi : st.N ≤ idx.toNat) :
    exec instr st = .next (st.raise .index instr.word) :=
  h.trans (if_neg (by simpa using hi))

theorem exec_of_readFlagged_some {w : Word} (h : exec instr st = readFlagged st r instr) (hr : r = some w) :
    exec instr st = .next (st.respond w) := by
  rw [h, hr, readFlagged, answer_eq]

theorem exec_of_readFlagged_none (h : exec instr st = readFlagged st r instr) (hr : r = none) :
    exec instr st = .next (st.raise .uninit instr.word) := by
  rw [h, hr, readFlagged, fail_eq]

end

/-! ## The writes (R201 to R207) -/

/-- Settles O14: a scalar write has no check after decode, so its effect is its definition. -/
theorem scalarWritesEffect : Obligations.ScalarWritesEffect := fun _ d =>
  ⟨decode_of_row (m := .wrp) d rfl rfl, rfl, decode_of_row (m := .wrq) d rfl rfl, rfl,
    decode_of_row (m := .wrs) d rfl rfl, rfl, decode_of_row (m := .wrv) d rfl rfl, rfl⟩

theorem wrkey_word (i : Nibble) (d : Word) : (Instr.wrkey i d).word = 0x14#8 ++ i ++ 0#4 :=
  (append_idx_eq_or 0x14#8 i).symm

theorem wrord_word (p : Nibble) (d : Word) : (Instr.wrord p d).word = 0x15#8 ++ p ++ 0#4 :=
  (append_idx_eq_or 0x15#8 p).symm

theorem wrsp_word (i : Nibble) (j : BitVec 1) (d : Word) :
    (Instr.wrsp i j d).word = 0x16#8 ++ i ++ 0#3 ++ j :=
  (append_idx_sel_eq_or 0x16#8 i j).symm

theorem wrsp_one_word (i : Nibble) (d : Word) : (Instr.wrsp i 1 d).word = 0x16#8 ++ i ++ 1#4 :=
  (wrsp_word i 1 d).trans (append_idx_one 0x16#8 i).symm

/-- Settles O15: behind the index test `WRKEY` has no check. -/
theorem wrkeyEffect : Obligations.WrkeyEffect := by
  intro st i d
  rw [← wrkey_word i d]
  exact ⟨decode_word (.wrkey i d) d, exec_of_index_lt rfl, exec_of_index_le rfl⟩

section
variable {st : State} {p i : Nibble} {j : BitVec 1} {d : Word}

theorem exec_wrord_of_lt_sixteen (hp : p.toNat < st.N) (hd : d.toNat < 16) :
    exec (.wrord p d) st =
      .next (State.respond { st.setOrd p.toNat (BitVec.ofNat 4 d.toNat) with cwv := false } 0) := by
  rw [exec_of_index_lt rfl hp, if_pos (by simpa using hd), lowNibble_eq, done_eq]

theorem exec_wrord_of_sixteen_le (hp : p.toNat < st.N) (hd : 16 ≤ d.toNat) :
    exec (.wrord p d) st = .next (st.raise .operand (Instr.wrord p d).word) := by
  rw [exec_of_index_lt rfl hp, if_neg (by simpa using hd), fail_eq]

theorem exec_wrsp_of_some {words : List Word} (hi : i.toNat < st.N)
    (hw : writeSpWord (st.spAt i.toNat) j d = some words) :
    exec (.wrsp i j d) st = .next ((st.setSp i.toNat words).respond 0) :=
  (exec_of_index_lt rfl hi).trans (by simp [hw])

theorem exec_wrsp_of_none (hi : i.toNat < st.N) (hw : writeSpWord (st.spAt i.toNat) j d = none) :
    exec (.wrsp i j d) st = .next (st.raise .spArity (Instr.wrsp i j d).word) :=
  (exec_of_index_lt rfl hi).trans (by simp [hw])

end

/-- Settles O16: behind the index test the range test of R254 decides. -/
theorem wrordEffect : Obligations.WrordEffect := by
  intro st p d
  rw [← wrord_word p d]
  exact ⟨decode_word (.wrord p d) d, exec_wrord_of_lt_sixteen, exec_wrord_of_sixteen_le,
    exec_of_index_le rfl⟩

/-- Settles O17: behind the index test the sequence after the write decides; there is none when word 1 is
written to an empty one. -/
theorem wrspEffect : Obligations.WrspEffect := by
  intro st i j d
  rw [← wrsp_word i j d, ← wrsp_one_word i d]
  refine ⟨decode_word (.wrsp i j d) d, fun hi => exec_wrsp_of_some hi rfl, fun hi hsp => ?_,
    fun w ws hi hsp => ?_, exec_of_index_le rfl⟩
  · exact exec_wrsp_of_none hi (by rw [hsp]; rfl)
  · exact exec_wrsp_of_some hi (by rw [hsp]; rfl)

/-! ## The reads (R208 to R214) -/

/-- Settles O18: a scalar read answers its register when that holds a value. -/
theorem scalarReadsEffect : Obligations.ScalarReadsEffect := fun _ d =>
  ⟨decode_word .rdp d, decode_word .rdq d, decode_word .rds d, decode_word .rdv d,
    fun _ => exec_of_readFlagged_some rfl, exec_of_readFlagged_none rfl,
    fun _ => exec_of_readFlagged_some rfl, exec_of_readFlagged_none rfl,
    fun _ => exec_of_readFlagged_some rfl, exec_of_readFlagged_none rfl,
    fun _ => exec_of_readFlagged_some rfl, exec_of_readFlagged_none rfl⟩

theorem rdkey_word (i : Nibble) : (Instr.rdkey i).word = 0x1C#8 ++ i ++ 0#4 :=
  (append_idx_eq_or 0x1C#8 i).symm

theorem rdord_word (p : Nibble) : (Instr.rdord p).word = 0x1D#8 ++ p ++ 0#4 :=
  (append_idx_eq_or 0x1D#8 p).symm

theorem rdsp_word (i : Nibble) (j : BitVec 1) : (Instr.rdsp i j).word = 0x1E#8 ++ i ++ 0#3 ++ j :=
  (append_idx_sel_eq_or 0x1E#8 i j).symm

section
variable {st : State} {instr : Instr} {idx : Nibble} {r : Flagged Word}

/-- A read of an entry of a file that holds a value answers it (R200, R253). -/
theorem exec_fileRead_of_some {w : Word}
    (h : exec instr st = if st.hasIndex idx then readFlagged st r instr else fail st .index instr)
    (hi : idx.toNat < st.N) (hr : r = some w) : exec instr st = .next (st.respond w) :=
  exec_of_readFlagged_some (exec_of_index_lt h hi) hr

/-- A read of an entry of a file that holds no value is refused (R200, R255). -/
theorem exec_fileRead_of_none
    (h : exec instr st = if st.hasIndex idx then readFlagged st r instr else fail st .index instr)
    (hi : idx.toNat < st.N) (hr : r = none) : exec instr st = .next (st.raise .uninit instr.word) :=
  exec_of_readFlagged_none (exec_of_index_lt h hi) hr

end

/-- Settles O19: behind the index test a file read is a flagged read, of an order entry zero-extended and of a
side-parameter word that the sequence has. -/
theorem fileReadsEffect : Obligations.FileReadsEffect := by
  intro st i j d
  rw [← rdkey_word, ← rdord_word, ← rdsp_word]
  refine ⟨decode_word (.rdkey i) d, fun _ => exec_fileRead_of_some rfl, exec_fileRead_of_none rfl,
    exec_of_index_le rfl,
    decode_word (.rdord i) d, fun o hi ho => ?_, fun hi ho => ?_, exec_of_index_le rfl,
    decode_word (.rdsp i j) d, fun hj hi => ?_, fun hi hj => ?_, exec_of_index_le rfl⟩
  · have hread : (st.ordAt i.toNat).map zextWord = some (BitVec.ofNat 64 o.toNat) := by
      rw [ho, Option.map_some, zextWord, BitVec.ofNat_toNat]
    exact exec_fileRead_of_some rfl hi hread
  · exact exec_fileRead_of_none rfl hi (Option.map_eq_none_iff.2 ho)
  · exact exec_fileRead_of_some rfl hi (List.getElem?_eq_getElem hj)
  · exact exec_fileRead_of_none rfl hi (List.getElem?_eq_none hj)

end Sys2Proof.Machine
end

section
/-! PROOFS. The system commands that check nothing: `NOP`, `CLRERR` and `SRST` (R230, R232, R233). -/

namespace Sys2Proof.Machine

theorem exec_nop (st : State) : exec .nop st = .next (st.respond 0) := rfl

theorem exec_clrerr (st : State) : exec .clrerr st = .next (st.clearError.respond 0) := rfl

theorem exec_srst (st : State) : exec .srst st = .next (st.clearAll.respond 0) := rfl

/-- `0x0001` is `NOP`'s opcode with the `SEL` bit set, a bit format Z does not use (R99, R230). -/
theorem not_unusedZero_one : ¬ (Mnemonic.format .nop).UnusedZero 0x0001 := by decide

/-- Settles O10: `NOP` and `CLRERR` have no check after decode, so each answers in every state. -/
theorem nopAndClrerrEffect : Obligations.NopAndClrerrEffect := fun st d =>
  ⟨decode_word .nop d, exec_nop st,
    decode_of_not_unusedZero (m := .nop) d rfl not_unusedZero_one,
    decode_word .clrerr d, exec_clrerr st⟩

/-- Settles O12: `SRST` leads to the reset state with an answer, where `P` holds no value to read. -/
theorem srstEffect : Obligations.SrstEffect := by
  intro st d
  refine ⟨decode_word .srst d, exec_srst st, fun t ht => ?_⟩
  obtain rfl : st.clearAll.respond 0 = t := Host.Outcome.next.inj ((exec_srst st).symm.trans ht)
  exact exec_of_readFlagged_none (instr := .rdp) rfl st.clearAll_p

end Sys2Proof.Machine
end

section
/-! PROOFS. Errors and the channel: a refusal writes its error record and nothing else, which command reports
which error, that no check reads the record, and what a step answers (R251 to R267, R280 to R283). -/

namespace Sys2Proof.Machine

/-! ## A step on the channel (R267, R280, R283) -/

/-- A step that finds a command executes it, and every execution is answered (R92, R101). -/
theorem step_answers_command {st : State} {c : Command} {rest : List Input} (h : st.input = .command c :: rest) :
    ∃ t r, step st = .next t ∧ t.rsp = some r := by
  obtain ⟨hexecute, -, -⟩ := stepExecutesNextCommand st c rest h
  obtain ⟨t, r, ht, hr, -⟩ := everyCommandIsAnswered { st with input := rest } c
  exact ⟨t, r, hexecute.trans ht, hr⟩

theorem step_of_rst {st : State} {f : Option Command} {rest : List Input} (h : st.input = .rst f :: rest) :
    step st = .next (State.clearAll { st with input := rest }) := by
  simp only [step, serve, h, pinReset_eq]

theorem step_of_no_input {st : State} (h : st.input = []) : step st = .next { st with rsp := none } := by
  simp only [step, serve, h, idle_eq]

/-- Settles O8: one case for each thing the channel can hold next. -/
theorem pinResetAndIdle : Obligations.PinResetAndIdle :=
  ⟨fun _ _ _ => step_of_rst, fun _ _ _ => step_answers_command, fun _ => step_of_no_input⟩

/-! ## A refusal is precise (R262, R263) -/

/-- Settles O51: a command that reports an error did not complete, so its state is that of error entry. -/
theorem refusedCommandsArePrecise : Obligations.RefusedCommandsArePrecise := by
  intro i st t r hexec hrsp herr
  obtain ⟨e, rfl⟩ | ⟨u, w, -, rfl⟩ := exec_cases hexec
  · obtain rfl := Option.some.inj hrsp
    exact ⟨rfl, rfl⟩
  · obtain rfl := Option.some.inj hrsp
    exact absurd rfl herr

/-! ## The table of R259 -/

/-- A code that a command reports is in its row of the table. -/
theorem mem_raises_of_err {i : Instr} {st t : State} {r : Response} {e : ErrCode} (hexec : exec i st = .next t)
    (hrsp : t.rsp = some r) (herr : r.err = e.code) : e ∈ Mnemonic.raises i.mnemonic := by
  by_contra hnot
  have havoids : Avoids e (exec i st) := exec_avoids (by simpa using hnot)
  exact havoids t r hexec hrsp herr

/-- The table of R259 read by columns: the commands marked for each code. -/
theorem mem_raises_iff (m : Mnemonic) :
    ErrCode.opcode ∉ Mnemonic.raises m
    ∧ (ErrCode.index ∈ Mnemonic.raises m ↔
        m ∈ [.rdslot, .wrkey, .wrord, .wrsp, .rdkey, .rdord, .rdsp, .kstep, .tenc, .tdec])
    ∧ (ErrCode.operand ∈ Mnemonic.raises m ↔ m = .wrord)
    ∧ (ErrCode.uninit ∈ Mnemonic.raises m ↔
        m ∈ [.rdp, .rdq, .rds, .rdv, .rdkey, .rdord, .rdsp, .kstep, .keygen, .tenc, .tdec, .enc, .dec])
    ∧ (ErrCode.order ∈ Mnemonic.raises m ↔ m ∈ [.enc, .dec])
    ∧ (ErrCode.spArity ∈ Mnemonic.raises m ↔ m ∈ [.wrsp, .tdec, .dec])
    ∧ (ErrCode.spRange ∈ Mnemonic.raises m ↔ m ∈ [.tdec, .dec]) := by
  cases m <;> decide

/-- Settles O53: a reported code is in the command's row of the table, and the columns list the commands. -/
theorem errorsPerCommand : Obligations.ErrorsPerCommand := by
  intro i st t r hexec hrsp
  have hmem {e : ErrCode} (herr : r.err = e.code) : e ∈ Mnemonic.raises i.mnemonic :=
    mem_raises_of_err hexec hrsp herr
  obtain ⟨hopcode, hindex, hoperand, huninit, horder, harity, hrange⟩ := mem_raises_iff i.mnemonic
  exact ⟨fun h => hopcode (hmem h), fun h => hindex.1 (hmem h), fun h => hoperand.1 (hmem h),
    fun h => huninit.1 (hmem h), fun h => horder.1 (hmem h), fun h => harity.1 (hmem h),
    fun h => hrange.1 (hmem h)⟩

/-! ## The error record is read by no check (R265) -/

/-- The state with `ERR`, `ECMD`, the host's inputs and the last response of another one. -/
def State.withRecordOf (st other : State) : State :=
  { st with err := other.err, ecmd := other.ecmd, input := other.input, rsp := other.rsp }

/-- The second answer has the registers and the response of the first; its error record is its own. -/
def AgreesButRecord (input : List Input) (result result' : Result) : Prop :=
  ∀ t, result = .next t → ∃ u, result' = .next u ∧ u = { t with err := u.err, ecmd := u.ecmd, input := input }

section
variable {st other : State}

@[simp] theorem State.withRecordOf_p : (st.withRecordOf other).p = st.p := rfl
@[simp] theorem State.withRecordOf_q : (st.withRecordOf other).q = st.q := rfl
@[simp] theorem State.withRecordOf_s : (st.withRecordOf other).s = st.s := rfl
@[simp] theorem State.withRecordOf_v : (st.withRecordOf other).v = st.v := rfl
@[simp] theorem State.withRecordOf_keyAt (i : Nat) : (st.withRecordOf other).keyAt i = st.keyAt i := rfl
@[simp] theorem State.withRecordOf_spAt (i : Nat) : (st.withRecordOf other).spAt i = st.spAt i := rfl
@[simp] theorem State.withRecordOf_blockOperands :
    (st.withRecordOf other).blockOperands = st.blockOperands := rfl
@[simp] theorem State.withRecordOf_firstSpError :
    (st.withRecordOf other).firstSpError = st.firstSpError := rfl

theorem agrees_respond (st other : State) (w : Word) :
    AgreesButRecord other.input (.next (st.respond w)) (.next ((st.withRecordOf other).respond w)) := by
  rintro t ⟨⟩
  exact ⟨_, rfl, rfl⟩

/-- Error entry reads the record only to write the record. -/
theorem agrees_fail (e : ErrCode) (i : Instr) :
    AgreesButRecord other.input (fail st e i) (fail (st.withRecordOf other) e i) := by
  rintro t ⟨⟩
  exact ⟨_, rfl, rfl⟩

theorem agrees_readFlagged (r : Flagged Word) (i : Instr) :
    AgreesButRecord other.input (readFlagged st r i) (readFlagged (st.withRecordOf other) r i) := by
  cases r with
  | none => exact agrees_fail .uninit i
  | some w => exact agrees_respond st other w

/-- The index test compares with `N` alone (R253). -/
theorem agrees_indexTest {idx : Nibble} {result result' : Result} {i : Instr}
    (hpassed : AgreesButRecord other.input result result') :
    AgreesButRecord other.input (if st.hasIndex idx then result else fail st .index i)
      (if (st.withRecordOf other).hasIndex idx then result' else fail (st.withRecordOf other) .index i) := by
  have htest : (st.withRecordOf other).hasIndex idx = st.hasIndex idx := rfl
  rw [htest]
  split
  · exact hpassed
  · exact agrees_fail .index i

end

theorem wrord_agrees (st other : State) (p : Nibble) (d : Word) :
    AgreesButRecord other.input (exec (.wrord p d) st) (exec (.wrord p d) (st.withRecordOf other)) := by
  refine agrees_indexTest ?_
  split
  · exact agrees_respond _ other 0
  · exact agrees_fail .operand _

theorem wrsp_agrees (st other : State) (i : Nibble) (j : BitVec 1) (d : Word) :
    AgreesButRecord other.input (exec (.wrsp i j d) st) (exec (.wrsp i j d) (st.withRecordOf other)) := by
  refine agrees_indexTest ?_
  rw [State.withRecordOf_spAt]
  match writeSpWord (st.spAt i.toNat) j d with
  | some _ => exact agrees_respond _ other 0
  | none => exact agrees_fail .spArity _

theorem kstep_agrees (st other : State) (i : Nibble) :
    AgreesButRecord other.input (exec (.kstep i) st) (exec (.kstep i) (st.withRecordOf other)) := by
  refine agrees_indexTest ?_
  rw [State.withRecordOf_p, State.withRecordOf_q, State.withRecordOf_s]
  match st.p, st.q, st.s with
  | some _, some _, some _ => exact agrees_respond _ other 0
  | none, _, _ | some _, none, _ | some _, some _, none => exact agrees_fail .uninit _

theorem keygen_agrees (st other : State) :
    AgreesButRecord other.input (exec .keygen st) (exec .keygen (st.withRecordOf other)) := by
  rw [exec, execKeygen, exec, execKeygen, State.withRecordOf_p, State.withRecordOf_q, State.withRecordOf_s]
  match st.p, st.q, st.s with
  | some _, some _, some _ => exact agrees_respond _ other 0
  | none, _, _ | some _, none, _ | some _, some _, none => exact agrees_fail .uninit _

theorem tenc_agrees (st other : State) (i : Nibble) :
    AgreesButRecord other.input (exec (.tenc i) st) (exec (.tenc i) (st.withRecordOf other)) := by
  refine agrees_indexTest ?_
  rw [State.withRecordOf_v, State.withRecordOf_keyAt]
  match st.v, st.keyAt i.toNat with
  | some _, some _ => exact agrees_respond _ other 0
  | none, _ | some _, none => exact agrees_fail .uninit _

theorem tdec_agrees (st other : State) (i : Nibble) :
    AgreesButRecord other.input (exec (.tdec i) st) (exec (.tdec i) (st.withRecordOf other)) := by
  refine agrees_indexTest ?_
  rw [State.withRecordOf_v, State.withRecordOf_keyAt, State.withRecordOf_spAt]
  match st.v, st.keyAt i.toNat, spcheck (kindOf i.toNat) (st.spAt i.toNat) with
  | some _, some _, none => exact agrees_respond _ other 0
  | some _, some _, some e => exact agrees_fail e _
  | none, _, _ | some _, none, _ => exact agrees_fail .uninit _

theorem enc_agrees (st other : State) :
    AgreesButRecord other.input (exec .enc st) (exec .enc (st.withRecordOf other)) := by
  rw [exec, execEnc, exec, execEnc, State.withRecordOf_blockOperands]
  match st.blockOperands with
  | .error e => exact agrees_fail e _
  | .ok _ => exact agrees_respond _ other 0

theorem dec_agrees (st other : State) :
    AgreesButRecord other.input (exec .dec st) (exec .dec (st.withRecordOf other)) := by
  rw [exec, execDec, exec, execDec, State.withRecordOf_blockOperands, State.withRecordOf_firstSpError]
  match st.blockOperands, st.firstSpError with
  | .error e, _ => exact agrees_fail e _
  | .ok _, some e => exact agrees_fail e _
  | .ok _, none => exact agrees_respond _ other 0

/-- No command but `RDST` looks at the error record, the host's inputs or the last response (R265). -/
theorem exec_agrees {i : Instr} (hi : i ≠ .rdst) (st other : State) :
    AgreesButRecord other.input (exec i st) (exec i (st.withRecordOf other)) := by
  cases i with
  | rdst => exact absurd rfl hi
  | nop | wrp | wrq | wrs | wrv | selord => exact agrees_respond _ other 0
  | clrerr | srst => -- these set the record to 0 whatever it was
    rintro t ⟨⟩
    exact ⟨_, rfl, rfl⟩
  | rdslot => exact agrees_indexTest (agrees_respond st other _)
  | wrkey => exact agrees_indexTest (agrees_respond _ other 0)
  | rdp | rdq | rds | rdv => exact agrees_readFlagged _ _
  | rdkey | rdord | rdsp => exact agrees_indexTest (agrees_readFlagged _ _)
  | wrord => exact wrord_agrees st other _ _
  | wrsp => exact wrsp_agrees st other _ _ _
  | kstep => exact kstep_agrees st other _
  | keygen => exact keygen_agrees st other
  | tenc => exact tenc_agrees st other _
  | tdec => exact tdec_agrees st other _
  | enc => exact enc_agrees st other
  | dec => exact dec_agrees st other

/-- Settles O56: the second state is the first with the record of some other one. -/
theorem errorRecordReadByNoCheck : Obligations.ErrorRecordReadByNoCheck := by
  intro i st t err ecmd input rsp hi hexec
  exact exec_agrees hi st { st with err := err, ecmd := ecmd, input := input, rsp := rsp } t hexec

end Sys2Proof.Machine
end
